-- ==== Sys2Proof/Word.lean ====
section
/-! DEFINITION. The word and the byte of the engine (spec 00 R10, R11): host registers and the working words of the
digests are 32 bits, memory is bytes, the message counter is 64 bits. All arithmetic on them is unsigned and wraps. -/

namespace Sys2Proof

/-- A word is 32 bits (00 R10, R11). -/
abbrev Word := BitVec 32

/-- A byte is 8 bits (00 R11). -/
abbrev Byte := BitVec 8

end Sys2Proof
end

