-- ==== Sys2Proof/Machine/Bytes.lean ====
section
/-! DEFINITION. Word rotations and the byte orders of spec 00 R13 and 20 R66: how byte strings are read as words and
words written as byte strings. -/

namespace Sys2Proof.Machine

/-- `ROTR(x, n)` of 00 R13. -/
def rotr (x : Word) (n : Nat) : Word := x.rotateRight n

/-- `ROTL(x, n)` of 00 R13. -/
def rotl (x : Word) (n : Nat) : Word := x.rotateLeft n

/-- `BE32`: the word whose most significant byte is the first (00 R13). -/
def be32 (b0 b1 b2 b3 : Byte) : Word := b0 ++ b1 ++ b2 ++ b3

/-- `LE32`: the word whose least significant byte is the first (00 R13). -/
def le32 (b0 b1 b2 b3 : Byte) : Word := b3 ++ b2 ++ b1 ++ b0

/-- `BEW`: the bytes of a word, most significant first (00 R13). -/
def bew (w : Word) : List Byte :=
  [w.extractLsb' 24 8, w.extractLsb' 16 8, w.extractLsb' 8 8, w.extractLsb' 0 8]

/-- `LEW`: the bytes of a word, least significant first (00 R13). -/
def lew (w : Word) : List Byte :=
  [w.extractLsb' 0 8, w.extractLsb' 8 8, w.extractLsb' 16 8, w.extractLsb' 24 8]

/-- `BE64`: the bytes of a 64-bit number, most significant first (00 R13). -/
def be64 (n : BitVec 64) : List Byte :=
  [n.extractLsb' 56 8, n.extractLsb' 48 8, n.extractLsb' 40 8, n.extractLsb' 32 8,
   n.extractLsb' 24 8, n.extractLsb' 16 8, n.extractLsb' 8 8, n.extractLsb' 0 8]

/-- `LE64`: the bytes of a 64-bit number, least significant first (00 R13). -/
def le64 (n : BitVec 64) : List Byte :=
  [n.extractLsb' 0 8, n.extractLsb' 8 8, n.extractLsb' 16 8, n.extractLsb' 24 8,
   n.extractLsb' 32 8, n.extractLsb' 40 8, n.extractLsb' 48 8, n.extractLsb' 56 8]

/-- A byte string cut into words of four bytes, each read in the order `word` gives (20 R66). -/
def wordsOf (word : Byte → Byte → Byte → Byte → Word) : List Byte → List Word
  | b0 :: b1 :: b2 :: b3 :: rest => word b0 b1 b2 b3 :: wordsOf word rest
  | _ => []

/-- The number that a byte string writes most significant byte first, on unbounded integers (43 R221). -/
def beNat (b : List Byte) : Nat := b.foldl (fun n x => n * 256 + x.toNat) 0

end Sys2Proof.Machine
end

