-- ==== Sys2Proof/Config.lean ====
section
/-! DEFINITION. The two parameters of the engine (spec 00 R9). They are fixed for the life of an engine; the model
carries them, unchanged by every step, in the state (assumption log 1), so that a statement about every state holds
for every engine. The spec leaves no value open, so there is no free value here. -/

namespace Sys2Proof

/-- The parameters of 00 R9. DESIGN CHOICE (log 1): plain data, so that a state can be written out. -/
structure Config where
  /-- NUM_CTX: how many context slots there are. -/
  numCtx : Nat
  /-- DMEM_AW: the address width of the data memory in bits. -/
  dmemAw : Nat
  deriving DecidableEq, Repr

/-- The legal parameter values of 00 R9: NUM_CTX from 1 to 16, DMEM_AW from 8 to 24. -/
abbrev Config.legal (cfg : Config) : Prop :=
  1 ≤ cfg.numCtx ∧ cfg.numCtx ≤ 16 ∧ 8 ≤ cfg.dmemAw ∧ cfg.dmemAw ≤ 24

/-- The values 00 R9 assumes when none is given. -/
def Config.default : Config := { numCtx := 4, dmemAw := 12 }

/-- `DMEM_SIZE = 2^DMEM_AW` (00 R9, 20 R61). -/
def Config.dmemSize (cfg : Config) : Nat := 2 ^ cfg.dmemAw

end Sys2Proof
end

