-- ==== Sys2Proof/Syntax.lean ====
section
/-! DEFINITION. What can be asked of the engine: the thirteen commands (spec 30 R98, one constructor of `Instr` per row
of opcode_table.json), the sixteen host registers (10 R23), and the events of a run (30 R104 and 70 R300, R306). -/

namespace Sys2Proof

/-- The digest variants: field VAR of the command word and of a context slot (30 R93, 10 R42). -/
inductive Variant where
  | sha256
  | sha224
  | rmd160
  deriving DecidableEq, Repr

/-- The two variants HMAC takes (41 R180). -/
inductive MacVariant where
  | sha256
  | sha224
  deriving DecidableEq, Repr

/-- The network: field NET of the command word (30 R93). -/
inductive Net where
  | main
  | test
  deriving DecidableEq, Repr

/-- The commands (30 R98). A slot number is the four bits of field CTX (30 R94). -/
inductive Instr where
  | ctxInit (c : BitVec 4) (v : Variant)
  | ctxUpdate (c : BitVec 4)
  | ctxFinal (c : BitVec 4)
  | sha256
  | sha224
  | rmd160
  | hmac (v : MacVariant)
  | b58Enc
  | b58Dec
  | b58cEnc (ver : Byte)
  | b58cDec
  | deriveP2pkh (net : Net)
  | wrapP2sh
  deriving DecidableEq, Repr

/-- The host registers, in the order of the map of 10 R23. -/
inductive Reg where
  | id
  | cmd
  | status
  | srcAddr
  | srcLen
  | dstAddr
  | dstCap
  | keyAddr
  | keyLen
  | resLen
  | resVer
  | errInfo
  | ctxState
  | ctxVariant
  | config
  | reserved
  deriving DecidableEq, Repr

/-- What can happen next in a run: a step of the ENGINE (70 R306), a reset (70 R300), or an operation of the HOST
(30 R104: WR, RD, MW of one byte, MR of one byte, POLL). Which agent moves next is data (log 2). -/
inductive Event where
  | engine
  | reset
  | wr (r : Reg) (v : Word)
  | rd (r : Reg)
  | mw (a : Nat) (b : Byte)
  | mr (a : Nat)
  | poll
  deriving DecidableEq, Repr

/-- A value a host read returned and the host's program recorded (30 R104, forms RD and MR). -/
inductive Reading where
  | reg (r : Reg) (v : Word)
  | byte (a : Nat) (b : Byte)
  deriving DecidableEq, Repr

end Sys2Proof
end

