-- ==== Sys2Proof/WellFormed.lean ====
section
/-! DEFINITION. Which commands an engine has: the value check of spec 30 R94 and R100 that the types of `Instr` do not
make. (VAR = 3 in CTX_INIT and VAR >= 2 in HMAC cannot be written as an `Instr`; the decoder refuses those words.) -/

namespace Sys2Proof

/-- A context command is legal only when its slot number is below NUM_CTX (30 R94). -/
def Instr.wellFormed (numCtx : Nat) : Instr → Bool
  | .ctxInit c _ => decide (c.toNat < numCtx)
  | .ctxUpdate c => decide (c.toNat < numCtx)
  | .ctxFinal c => decide (c.toNat < numCtx)
  | .sha256 => true
  | .sha224 => true
  | .rmd160 => true
  | .hmac _ => true
  | .b58Enc => true
  | .b58Dec => true
  | .b58cEnc _ => true
  | .b58cDec => true
  | .deriveP2pkh _ => true
  | .wrapP2sh => true

/-- A host operation the ports can carry: the data port has DMEM_AW address bits (20 R62). -/
def Event.wellFormed (cfg : Config) : Event → Bool
  | .mw a _ => decide (a < cfg.dmemSize)
  | .mr a => decide (a < cfg.dmemSize)
  | .engine => true
  | .reset => true
  | .wr _ _ => true
  | .rd _ => true
  | .poll => true

end Sys2Proof
end

