-- ==== Sys2Proof/Decode.lean ====
section
/-! DEFINITION. The command word (spec 30 R90 to R103): its fields, the mask and match rows of R99, the decoder of R100,
and the encoder of R103. Every command is one 32-bit word; every word decodes to exactly one command or is illegal. -/

namespace Sys2Proof

/-! ### Fields (30 R91, R97): unsigned, no extension, no scaling -/

/-- OP = w[7:0] (30 R92). -/
def opField (w : Word) : Byte := w.extractLsb' 0 8

/-- CTX = w[11:8] (30 R94). -/
def ctxField (w : Word) : BitVec 4 := w.extractLsb' 8 4

/-- VAR = w[13:12] (30 R93). -/
def varField (w : Word) : BitVec 2 := w.extractLsb' 12 2

/-- NET = w[14] (30 R93). -/
def netField (w : Word) : BitVec 1 := w.extractLsb' 14 1

/-- VER = w[23:16] (30 R95). -/
def verField (w : Word) : Byte := w.extractLsb' 16 8

/-- The variant codes of 30 R93 and 10 R42. -/
def variantCode : Variant → BitVec 2
  | .sha256 => 0
  | .sha224 => 1
  | .rmd160 => 2

/-- The inverse of `variantCode`; code 3 is reserved (30 R93). -/
def variantOfCode (v : BitVec 2) : Option Variant :=
  if v = 0 then some .sha256 else if v = 1 then some .sha224 else if v = 2 then some .rmd160 else none

/-- The HMAC variant in VAR[0]; VAR[1] is fixed 0 by the row's mask (30 R99, 41 R183). -/
def macVariantOfCode (v : BitVec 2) : MacVariant := if v = 1 then .sha224 else .sha256

/-- The VAR code of an HMAC variant (41 R180). -/
def macVariantCode : MacVariant → BitVec 2
  | .sha256 => 0
  | .sha224 => 1

/-- NET 0 is MAIN, 1 is TEST (30 R93). -/
def netOfCode (n : BitVec 1) : Net := if n = 1 then .test else .main

/-- The NET code of a network (30 R93). -/
def netCode : Net → BitVec 1
  | .main => 0
  | .test => 1

/-! ### Decoding (30 R99 to R101) -/

/-- Why a word is ILLEGAL (30 R101): it matches no row (a reserved OP, a reserved bit or an unused field set), it is
CTX_INIT with VAR = 3, or it names a slot the engine does not have. All complete with ILLEGAL_COMMAND (60 R278). -/
inductive Illegal where
  | noRow
  | reservedVariant
  | noSuchSlot
  deriving DecidableEq, Repr

/-- One row of 30 R99: a word selects the command when `w & mask = pattern`. -/
structure Row where
  pattern : Word
  mask : Word
  /-- The command with the fields of the word (30 R97), or `none` for VAR = 3 in CTX_INIT. -/
  build : Word → Option Instr

/-- The table of 30 R99, in its order. -/
def rows : List Row :=
  [ ⟨0x00000001, 0xFFFFC0FF, fun w => (variantOfCode (varField w)).map (Instr.ctxInit (ctxField w))⟩,
    ⟨0x00000002, 0xFFFFF0FF, fun w => some (.ctxUpdate (ctxField w))⟩,
    ⟨0x00000003, 0xFFFFF0FF, fun w => some (.ctxFinal (ctxField w))⟩,
    ⟨0x00000010, 0xFFFFFFFF, fun _ => some .sha256⟩,
    ⟨0x00000011, 0xFFFFFFFF, fun _ => some .sha224⟩,
    ⟨0x00000012, 0xFFFFFFFF, fun _ => some .rmd160⟩,
    ⟨0x00000013, 0xFFFFEFFF, fun w => some (.hmac (macVariantOfCode (varField w)))⟩,
    ⟨0x00000020, 0xFFFFFFFF, fun _ => some .b58Enc⟩,
    ⟨0x00000021, 0xFFFFFFFF, fun _ => some .b58Dec⟩,
    ⟨0x00000022, 0xFF00FFFF, fun w => some (.b58cEnc (verField w))⟩,
    ⟨0x00000023, 0xFFFFFFFF, fun _ => some .b58cDec⟩,
    ⟨0x00000030, 0xFFFFBFFF, fun w => some (.deriveP2pkh (netOfCode (netField w)))⟩,
    ⟨0x00000031, 0xFFFFFFFF, fun _ => some .wrapP2sh⟩ ]

/-- A word selects a row (30 R99). -/
def Row.selects (r : Row) (w : Word) : Bool := w &&& r.mask == r.pattern

/-- `decode(w)` of 30 R100, for an engine of NUM_CTX slots. -/
def decode (numCtx : Nat) (w : Word) : Except Illegal Instr :=
  match rows.find? (fun r => r.selects w) with
  | none => .error .noRow
  | some r =>
    match r.build w with
    | none => .error .reservedVariant
    | some i => if i.wellFormed numCtx then .ok i else .error .noSuchSlot

/-! ### Encoding (30 R98, R103) -/

/-- The OP of each command (30 R98). -/
def opcode : Instr → Byte
  | .ctxInit _ _ => 0x01
  | .ctxUpdate _ => 0x02
  | .ctxFinal _ => 0x03
  | .sha256 => 0x10
  | .sha224 => 0x11
  | .rmd160 => 0x12
  | .hmac _ => 0x13
  | .b58Enc => 0x20
  | .b58Dec => 0x21
  | .b58cEnc _ => 0x22
  | .b58cDec => 0x23
  | .deriveP2pkh _ => 0x30
  | .wrapP2sh => 0x31

/-- The CTX field: the slot number of a context command, else 0 (30 R99). -/
def ctxOf : Instr → BitVec 4
  | .ctxInit c _ => c
  | .ctxUpdate c => c
  | .ctxFinal c => c
  | _ => 0

/-- The VAR field: of CTX_INIT and HMAC, else 0 (30 R99). -/
def varOf : Instr → BitVec 2
  | .ctxInit _ v => variantCode v
  | .hmac v => macVariantCode v
  | _ => 0

/-- The NET field: of DERIVE_P2PKH, else 0 (30 R99). -/
def netOf : Instr → BitVec 1
  | .deriveP2pkh net => netCode net
  | _ => 0

/-- The VER field: of B58C_ENC, else 0 (30 R99). -/
def verOf : Instr → Byte
  | .b58cEnc ver => ver
  | _ => 0

/-- The command word of a command: the fields of 30 R91, most significant first, the reserved bits 0 (30 R96). -/
def encode (i : Instr) : Word :=
  0#8 ++ verOf i ++ 0#1 ++ netOf i ++ varOf i ++ ctxOf i ++ opcode i

/-- What the decoder reads from an instruction of the opcode table: a command is one 32-bit word (30 R90), decoded for
the NUM_CTX of the engine at `State.reset` (00 R9; log 9). Bits at and above `nbits` are 0; more than 32 bits is no
command. -/
def decodeTableWord (nbits w : Nat) : Option Instr :=
  if w % 2 ^ nbits < 2 ^ 32 then
    match decode Config.default.numCtx (BitVec.ofNat 32 (w % 2 ^ nbits)) with
    | .ok i => some i
    | .error _ => none
  else none

end Sys2Proof
end

