-- ==== Sys2Proof/Machine/State.lean ====
section
/-! DEFINITION. The state of the engine (spec 10 R20): the stored host registers, the context slots, the data memory
with its written marks; beside them the model's own fields: the parameters (log 1), and the HOST agent's pending
events and recorded readings (log 2). All of it is plain data. -/

namespace Sys2Proof.Machine

/-- The lifecycle of a context slot (10 R41). -/
inductive LState where
  | empty
  | init
  | absorbing
  | finalized
  deriving DecidableEq, Repr

/-- H[0..7], the running chaining state (10 R43): eight words for SHA-2; RIPEMD-160 uses h0 to h4. -/
structure Chain where
  h0 : Word
  h1 : Word
  h2 : Word
  h3 : Word
  h4 : Word
  h5 : Word
  h6 : Word
  h7 : Word
  deriving DecidableEq, Repr

/-- One context slot, or one transient context (10 R40). -/
structure Slot where
  /-- LSTATE (10 R41). -/
  lstate : LState
  /-- VAR (10 R42). -/
  var : Variant
  /-- H (10 R43). -/
  h : Chain
  /-- BUF, the pending-block buffer (10 R44). -/
  buf : Vector Byte 64
  /-- BUFLEN, the number of valid bytes in BUF (10 R44). -/
  buflen : Fin 64
  /-- TOTAL, the bytes absorbed, modulo 2^64 (10 R45). -/
  total : BitVec 64
  /-- DIGEST, latched at finalization (10 R46). -/
  digest : Vector Byte 32
  deriving DecidableEq, Repr

/-- A slot after reset (10 R40, the reset column). -/
def Slot.reset : Slot :=
  { lstate := .empty, var := .sha256, h := ⟨0, 0, 0, 0, 0, 0, 0, 0⟩, buf := Vector.replicate 64 0, buflen := 0,
    total := 0, digest := Vector.replicate 32 0 }

/-- The data memory: the written bytes, by address (20 R61, R63). A byte is listed exactly when its written mark is
set; an unlisted address has no value, and reading it faults (log 5). -/
abbrev Memory := List Host.Cell

/-- The one canonical form of a memory: addresses strictly rising. -/
abbrev Memory.wf (m : Memory) : Prop := List.Pairwise (fun x y => x.1 < y.1) m

structure State where
  /-- NUM_CTX and DMEM_AW (00 R9; log 1). -/
  cfg : Config
  /-- CMD (10 R25). -/
  cmd : Word
  /-- STATUS.BUSY (10 R26). -/
  busy : Bool
  /-- STATUS.DONE (10 R26). -/
  done : Bool
  /-- STATUS.ERR (10 R26). -/
  err : Byte
  /-- SRC_ADDR (10 R27). -/
  srcAddr : Word
  /-- SRC_LEN (10 R28). -/
  srcLen : Word
  /-- DST_ADDR (10 R29). -/
  dstAddr : Word
  /-- DST_CAP (10 R30). -/
  dstCap : Word
  /-- KEY_ADDR (10 R31). -/
  keyAddr : Word
  /-- KEY_LEN (10 R32). -/
  keyLen : Word
  /-- RES_LEN (10 R33). -/
  resLen : Word
  /-- RES_VER, the stored bits 7:0 (10 R34). -/
  resVer : Byte
  /-- ERR_INFO (10 R35). -/
  errInfo : Word
  /-- The context slots, slot 0 first (10 R40). -/
  slots : List Slot
  /-- DMEM (20 R61, R63). -/
  mem : Memory
  /-- The events still to come, next first: the HOST's pending operations and the schedule (log 2). -/
  script : List Event
  /-- What the host's reads returned, oldest first (30 R104; log 2). -/
  readings : List Reading
  deriving DecidableEq, Repr

/-- Why a run stops with a fault (60 R286). -/
inductive Fault where
  /-- A read, by the host (MR) or by a command, of a DMEM byte that nothing has written since reset (20 R63, R64).
  Safe: the hardware returns some byte, the model goes no further. -/
  | uninitRead
  /-- A host access that 70 R310 forbids while BUSY = 1, raised by the register port and the data port. Safe: no
  source says what the hardware does, the model goes no further. -/
  | hostHazard
  /-- A host data-port access at an address that the DMEM_AW address bits of the port cannot carry (20 R62), raised by
  the data port. Safe: no host can make this access (log 7). -/
  | noSuchAddress
  deriving DecidableEq, Repr

/-- Why a step has no meaning. -/
inductive Refusal where
  /-- An instruction that the model gives no meaning, raised by `exec`'s arm alone. Safe: the model goes no further.
  No arm raises it. -/
  | notModelled (mnemonic : String)
  deriving DecidableEq, Repr

/-- The machine right after reset, for given parameters (70 R300, R301, 10 R23, R40). -/
def State.resetOf (cfg : Config) : State :=
  { cfg := cfg, cmd := 0, busy := false, done := false, err := 0, srcAddr := 0, srcLen := 0, dstAddr := 0, dstCap := 0,
    keyAddr := 0, keyLen := 0, resLen := 0, resVer := 0, errInfo := 0, slots := List.replicate cfg.numCtx Slot.reset,
    mem := [], script := [], readings := [] }

/-- The machine right after reset, with the parameter values 00 R9 assumes when none is given. -/
def State.reset : State := State.resetOf Config.default

end Sys2Proof.Machine
end

