-- ==== Sys2Proof/Machine/Sha2.lean ====
section
/-! DEFINITION. SHA-256 and SHA-224 (spec 40 R120 to R130): constants, functions, compression, padding, output. -/

namespace Sys2Proof.Machine

/-- The initial value of SHA-256 (40 R120). -/
def ivSha256 : Chain :=
  ⟨0x6a09e667, 0xbb67ae85, 0x3c6ef372, 0xa54ff53a, 0x510e527f, 0x9b05688c, 0x1f83d9ab, 0x5be0cd19⟩

/-- The initial value of SHA-224 (40 R121). -/
def ivSha224 : Chain :=
  ⟨0xc1059ed8, 0x367cd507, 0x3070dd17, 0xf70e5939, 0xffc00b31, 0x68581511, 0x64f98fa7, 0xbefa4fa4⟩

/-- The round constants K[0..63] (40 R122). -/
def shaK : List Word :=
  [0x428a2f98, 0x71374491, 0xb5c0fbcf, 0xe9b5dba5, 0x3956c25b, 0x59f111f1, 0x923f82a4, 0xab1c5ed5] ++
  [0xd807aa98, 0x12835b01, 0x243185be, 0x550c7dc3, 0x72be5d74, 0x80deb1fe, 0x9bdc06a7, 0xc19bf174] ++
  [0xe49b69c1, 0xefbe4786, 0x0fc19dc6, 0x240ca1cc, 0x2de92c6f, 0x4a7484aa, 0x5cb0a9dc, 0x76f988da] ++
  [0x983e5152, 0xa831c66d, 0xb00327c8, 0xbf597fc7, 0xc6e00bf3, 0xd5a79147, 0x06ca6351, 0x14292967] ++
  [0x27b70a85, 0x2e1b2138, 0x4d2c6dfc, 0x53380d13, 0x650a7354, 0x766a0abb, 0x81c2c92e, 0x92722c85] ++
  [0xa2bfe8a1, 0xa81a664b, 0xc24b8b70, 0xc76c51a3, 0xd192e819, 0xd6990624, 0xf40e3585, 0x106aa070] ++
  [0x19a4c116, 0x1e376c08, 0x2748774c, 0x34b0bcb5, 0x391c0cb3, 0x4ed8aa4a, 0x5b9cca4f, 0x682e6ff3] ++
  [0x748f82ee, 0x78a5636f, 0x84c87814, 0x8cc70208, 0x90befffa, 0xa4506ceb, 0xbef9a3f7, 0xc67178f2]

/-- `Ch` (40 R123). -/
def shaCh (e f g : Word) : Word := (e &&& f) ^^^ (~~~e &&& g)

/-- `Maj` (40 R123). -/
def shaMaj (a b c : Word) : Word := (a &&& b) ^^^ (a &&& c) ^^^ (b &&& c)

/-- `Σ0` (40 R124). -/
def shaBigSigma0 (a : Word) : Word := rotr a 2 ^^^ rotr a 13 ^^^ rotr a 22

/-- `Σ1` (40 R124). -/
def shaBigSigma1 (e : Word) : Word := rotr e 6 ^^^ rotr e 11 ^^^ rotr e 25

/-- `σ0` (40 R125). -/
def shaSmallSigma0 (x : Word) : Word := rotr x 7 ^^^ rotr x 18 ^^^ (x >>> 3)

/-- `σ1` (40 R125). -/
def shaSmallSigma1 (x : Word) : Word := rotr x 17 ^^^ rotr x 19 ^^^ (x >>> 10)

/-- One more schedule word, on the words so far, newest first: W[t-2] is at 1, W[t-7] at 6, W[t-15] at 14, W[t-16] at
15 (40 R126). -/
def shaExpand (newestFirst : List Word) : List Word :=
  (shaSmallSigma1 (newestFirst.getD 1 0) + newestFirst.getD 6 0 + shaSmallSigma0 (newestFirst.getD 14 0)
    + newestFirst.getD 15 0) :: newestFirst

/-- The message schedule W[0..63] of a 64-byte block (40 R126). -/
def shaSchedule (block : List Byte) : List Word :=
  (Nat.repeat shaExpand 48 (wordsOf be32 block).reverse).reverse

/-- The eight working variables (40 R127). -/
structure ShaVars where
  a : Word
  b : Word
  c : Word
  d : Word
  e : Word
  f : Word
  g : Word
  h : Word
  deriving DecidableEq, Repr

/-- One round, on K[t] and W[t] (40 R127). -/
def shaRound (v : ShaVars) (kw : Word × Word) : ShaVars :=
  let t1 := v.h + shaBigSigma1 v.e + shaCh v.e v.f v.g + kw.1 + kw.2
  let t2 := shaBigSigma0 v.a + shaMaj v.a v.b v.c
  { h := v.g, g := v.f, f := v.e, e := v.d + t1, d := v.c, c := v.b, b := v.a, a := t1 + t2 }

/-- The working variables after the 64 rounds on a block (40 R127). -/
def shaRounds (h : Chain) (block : List Byte) : ShaVars :=
  (shaK.zip (shaSchedule block)).foldl shaRound
    { a := h.h0, b := h.h1, c := h.h2, d := h.h3, e := h.h4, f := h.h5, g := h.h6, h := h.h7 }

/-- `compress_SHA(H, B)` (40 R128). -/
def compressSha (h : Chain) (block : List Byte) : Chain :=
  let v := shaRounds h block
  { h0 := h.h0 + v.a, h1 := h.h1 + v.b, h2 := h.h2 + v.c, h3 := h.h3 + v.d,
    h4 := h.h4 + v.e, h5 := h.h5 + v.f, h6 := h.h6 + v.g, h7 := h.h7 + v.h }

/-- The number k of zero bytes in the padding of a message of `total` bytes, `(55 − (T mod 64)) mod 64` with a
non-negative remainder (40 R129, 42 R205). -/
def padZeros (total : BitVec 64) : Nat := (64 + 55 - total.toNat % 64) % 64

/-- `pad_SHA(T)` (40 R129): the bit length 8 × T mod 2^64 is big-endian. -/
def padSha (total : BitVec 64) : List Byte := 0x80 :: (List.replicate (padZeros total) 0 ++ be64 (8 * total))

/-- `out_SHA256(H)` (40 R130). -/
def outSha256 (h : Chain) : List Byte :=
  bew h.h0 ++ bew h.h1 ++ bew h.h2 ++ bew h.h3 ++ bew h.h4 ++ bew h.h5 ++ bew h.h6 ++ bew h.h7

/-- `out_SHA224(H)` (40 R130): H[7] is dropped. -/
def outSha224 (h : Chain) : List Byte :=
  bew h.h0 ++ bew h.h1 ++ bew h.h2 ++ bew h.h3 ++ bew h.h4 ++ bew h.h5 ++ bew h.h6

end Sys2Proof.Machine
end

