-- ==== Sys2Proof/Machine/Ripemd160.lean ====
section
/-! DEFINITION. RIPEMD-160 (spec 42 R190 to R206): constants, tables, compression, padding, output. Line A is the left
line, line B the right one. Tables are by step index j from 0 to 79; the round is j div 16. -/

namespace Sys2Proof.Machine

/-- The initial value H[0..4] (42 R190); H[5..7] are 0 (10 R43). -/
def ivRmd160 : Chain := ⟨0x67452301, 0xefcdab89, 0x98badcfe, 0x10325476, 0xc3d2e1f0, 0, 0, 0⟩

/-- The round constants of line A, by round (42 R191). -/
def rmdKA : List Word := [0x00000000, 0x5a827999, 0x6ed9eba1, 0x8f1bbcdc, 0xa953fd4e]

/-- The round constants of line B, by round (42 R191). -/
def rmdKB : List Word := [0x50a28be6, 0x5c4dd124, 0x6d703ef3, 0x7a6d76e9, 0x00000000]

/-- The round functions f(j, x, y, z), by step index (42 R192). -/
def rmdF (j : Nat) (x y z : Word) : Word :=
  if j ≤ 15 then x ^^^ y ^^^ z
  else if j ≤ 31 then (x &&& y) ||| (~~~x &&& z)
  else if j ≤ 47 then (x ||| ~~~y) ^^^ z
  else if j ≤ 63 then (x &&& z) ||| (y &&& ~~~z)
  else x ^^^ (y ||| ~~~z)

/-- Message-word selection of line A (42 R193). -/
def rmdRA : List Nat :=
  [0, 1, 2, 3, 4, 5, 6, 7, 8, 9, 10, 11, 12, 13, 14, 15] ++
  [7, 4, 13, 1, 10, 6, 15, 3, 12, 0, 9, 5, 2, 14, 11, 8] ++
  [3, 10, 14, 4, 9, 15, 8, 1, 2, 7, 0, 6, 13, 11, 5, 12] ++
  [1, 9, 11, 10, 0, 8, 12, 4, 13, 3, 7, 15, 14, 5, 6, 2] ++
  [4, 0, 5, 9, 7, 12, 2, 10, 14, 1, 3, 8, 11, 6, 15, 13]

/-- Message-word selection of line B (42 R194). -/
def rmdRB : List Nat :=
  [5, 14, 7, 0, 9, 2, 11, 4, 13, 6, 15, 8, 1, 10, 3, 12] ++
  [6, 11, 3, 7, 0, 13, 5, 10, 14, 15, 8, 12, 4, 9, 1, 2] ++
  [15, 5, 1, 3, 7, 14, 6, 9, 11, 8, 12, 2, 10, 0, 4, 13] ++
  [8, 6, 4, 1, 3, 11, 15, 0, 5, 12, 2, 13, 9, 7, 10, 14] ++
  [12, 15, 10, 4, 1, 5, 8, 7, 6, 2, 13, 14, 0, 3, 9, 11]

/-- Rotate-left amounts of line A (42 R195). -/
def rmdSA : List Nat :=
  [11, 14, 15, 12, 5, 8, 7, 9, 11, 13, 14, 15, 6, 7, 9, 8] ++
  [7, 6, 8, 13, 11, 9, 7, 15, 7, 12, 15, 9, 11, 7, 13, 12] ++
  [11, 13, 6, 7, 14, 9, 13, 15, 14, 8, 13, 6, 5, 12, 7, 5] ++
  [11, 12, 14, 15, 14, 15, 9, 8, 9, 14, 5, 6, 8, 6, 5, 12] ++
  [9, 15, 5, 11, 6, 8, 13, 12, 5, 12, 13, 14, 11, 8, 5, 6]

/-- Rotate-left amounts of line B (42 R196). -/
def rmdSB : List Nat :=
  [8, 9, 9, 11, 13, 15, 15, 5, 7, 7, 8, 11, 14, 14, 12, 6] ++
  [9, 13, 15, 7, 12, 8, 9, 11, 7, 7, 12, 7, 6, 15, 13, 11] ++
  [9, 7, 15, 11, 8, 6, 6, 14, 12, 13, 5, 14, 13, 13, 7, 5] ++
  [15, 5, 8, 11, 14, 14, 6, 14, 6, 9, 12, 9, 12, 5, 15, 8] ++
  [8, 5, 12, 9, 12, 5, 14, 6, 8, 13, 6, 5, 15, 13, 11, 11]

/-- The five variables of one line (42 R200). -/
structure RmdLine where
  a : Word
  b : Word
  c : Word
  d : Word
  e : Word
  deriving DecidableEq, Repr

/-- One step of one line: the round function's index, the message word, the constant and the rotation are the line's
own (42 R200). -/
def rmdLineStep (v : RmdLine) (fj : Nat) (x k : Word) (rot : Nat) : RmdLine :=
  let t := rotl (v.a + rmdF fj v.b v.c v.d + x + k) rot + v.e
  { a := v.e, e := v.d, d := rotl v.c 10, c := v.b, b := t }

/-- Step j of line A, on the sixteen words of the block (42 R200). -/
def rmdStepA (x : List Word) (v : RmdLine) (j : Nat) : RmdLine :=
  rmdLineStep v j (x.getD (rmdRA.getD j 0) 0) (rmdKA.getD (j / 16) 0) (rmdSA.getD j 0)

/-- Step j of line B, which uses the round functions in the opposite order (42 R192, R200). -/
def rmdStepB (x : List Word) (v : RmdLine) (j : Nat) : RmdLine :=
  rmdLineStep v (79 - j) (x.getD (rmdRB.getD j 0) 0) (rmdKB.getD (j / 16) 0) (rmdSB.getD j 0)

/-- `combine` (42 R201). H[5..7] are never changed (10 R43). -/
def rmdCombine (h : Chain) (p q : RmdLine) : Chain :=
  { h with
    h0 := h.h1 + p.c + q.d
    h1 := h.h2 + p.d + q.e
    h2 := h.h3 + p.e + q.a
    h3 := h.h4 + p.a + q.b
    h4 := h.h0 + p.b + q.c }

/-- `compress_RMD(H, B)` (42 R200): 80 steps of each line, from the same start, then the combination. -/
def compressRmd (h : Chain) (block : List Byte) : Chain :=
  let x := wordsOf le32 block
  let start : RmdLine := { a := h.h0, b := h.h1, c := h.h2, d := h.h3, e := h.h4 }
  rmdCombine h ((List.range 80).foldl (rmdStepA x) start) ((List.range 80).foldl (rmdStepB x) start)

/-- `pad_RMD(T)` (42 R205): as `padSha` but for the byte order of the bit length. -/
def padRmd (total : BitVec 64) : List Byte := 0x80 :: (List.replicate (padZeros total) 0 ++ le64 (8 * total))

/-- `out_RMD160(H)` (42 R206). -/
def outRmd160 (h : Chain) : List Byte := lew h.h0 ++ lew h.h1 ++ lew h.h2 ++ lew h.h3 ++ lew h.h4

end Sys2Proof.Machine
end

