-- ==== Sys2Proof/Machine/Digest.lean ====
section
/-! DEFINITION. The streaming machinery that SHA-256, SHA-224 and RIPEMD-160 share (spec 40 R140 to R142): absorbing
bytes into a context, finalizing it, and the one-shot digest over a transient context. -/

namespace Sys2Proof.Machine

/-- The initial value of a variant (40 R120, R121, 42 R190). -/
def initialValue : Variant → Chain
  | .sha256 => ivSha256
  | .sha224 => ivSha224
  | .rmd160 => ivRmd160

/-- The compression function of a variant (40 R140). -/
def compress : Variant → Chain → List Byte → Chain
  | .sha256 => compressSha
  | .sha224 => compressSha
  | .rmd160 => compressRmd

/-- The padding of a variant (40 R142). -/
def padding : Variant → BitVec 64 → List Byte
  | .sha256 => padSha
  | .sha224 => padSha
  | .rmd160 => padRmd

/-- The output of a variant (40 R142). -/
def digestOut : Variant → Chain → List Byte
  | .sha256 => outSha256
  | .sha224 => outSha224
  | .rmd160 => outRmd160

/-- `DLEN_V`, the digest length of a variant in bytes (40 R141). -/
def digestLen : Variant → Nat
  | .sha256 => 32
  | .sha224 => 28
  | .rmd160 => 20

/-- A context that CTX_INIT creates, or a transient one (40 R150, R141). -/
def Slot.fresh (v : Variant) : Slot :=
  { lstate := .init, var := v, h := initialValue v, buf := Vector.replicate 64 0, buflen := 0, total := 0,
    digest := Vector.replicate 32 0 }

/-- Absorb one byte: the loop body of `absorb` (40 R140). -/
def Slot.absorbByte (s : Slot) (b : Byte) : Slot :=
  let buf := s.buf.set s.buflen.val b s.buflen.isLt
  if s.buflen = 63 then { s with buf := buf, buflen := 0, h := compress s.var s.h buf.toList }
  else { s with buf := buf, buflen := s.buflen + 1 }

/-- `absorb(s, m)` (40 R140): the bytes in order; TOTAL does not change. -/
def Slot.absorb (s : Slot) (m : List Byte) : Slot := m.foldl Slot.absorbByte s

/-- `d ‖ 0x00^(32 − len(d))` (40 R142). -/
def latch (d : List Byte) : Vector Byte 32 := Vector.ofFn fun i => d.getD i.val 0

/-- `finalize(s)` (40 R142). -/
def Slot.finalize (s : Slot) : Slot :=
  let t := s.absorb (padding s.var s.total)
  { t with digest := latch (digestOut t.var t.h), lstate := .finalized }

/-- The digest a finalized context gives: the first DLEN bytes of DIGEST (40 R141, R152). -/
def Slot.digestBytes (s : Slot) : List Byte := s.digest.toList.take (digestLen s.var)

/-- What CTX_UPDATE makes of a context (40 R151). -/
def Slot.update (s : Slot) (m : List Byte) : Slot :=
  let t := s.absorb m
  { t with total := s.total + BitVec.ofNat 64 m.length, lstate := .absorbing }

/-- `Digest_V(m)`, the one-shot digest (40 R141, 42 R207). -/
def digest (v : Variant) (m : List Byte) : List Byte :=
  let t := (Slot.fresh v).absorb m
  ({ t with total := BitVec.ofNat 64 m.length }).finalize.digestBytes

/-- `SHA256d(m)` (00 R15). -/
def sha256d (m : List Byte) : List Byte := digest .sha256 (digest .sha256 m)

end Sys2Proof.Machine
end

