-- ==== Sys2Proof/Machine/Flags.lean ====
section
/-! DEFINITION. The engine's only flags, STATUS.BUSY, DONE and ERR (spec 10 R26, R49): the status codes of 60 R270, the
STATUS word, what the issue of a command does to them (70 R305) and what its completion does (60 R272). -/

namespace Sys2Proof.Machine

/-- The status codes of 60 R270. -/
inductive Status where
  | ok
  | invalidCharacter
  | checksumMismatch
  | tooShort
  | invalidState
  | invalidPubkeyLength
  | invalidAddress
  | illegalCommand
  | addressRange
  | outputOverflow
  deriving DecidableEq, Repr

/-- The value of STATUS.ERR for each status (60 R270). -/
def statusCode : Status → Byte
  | .ok => 0x00
  | .invalidCharacter => 0x01
  | .checksumMismatch => 0x02
  | .tooShort => 0x03
  | .invalidState => 0x04
  | .invalidPubkeyLength => 0x05
  | .invalidAddress => 0x06
  | .illegalCommand => 0x10
  | .addressRange => 0x11
  | .outputOverflow => 0x12

/-- STATUS as the host reads it (10 R26): reserved 31:16, ERR 15:8, reserved 7:2, DONE 1, BUSY 0. -/
def statusWord (s : State) : Word :=
  0#16 ++ s.err ++ 0#6 ++ BitVec.ofBool s.done ++ BitVec.ofBool s.busy

/-- The issue of a command word (70 R305, 10 R25). The result registers keep their values. -/
def State.issue (s : State) (w : Word) : State :=
  { s with cmd := w, busy := true, done := false, err := 0 }

/-- `complete(code, info, out_len, ver)`, the end of every command (60 R272). -/
def State.complete (s : State) (code : Status) (info outLen : Word) (ver : Byte) : State :=
  { s with resLen := outLen, resVer := ver, errInfo := info, err := statusCode code, busy := false, done := true }

end Sys2Proof.Machine
end

