-- ==== Sys2Proof/Machine/Ops.lean ====
section
/-! DEFINITION. The named operations over memory, slots and results (spec 20 R63 to R65, 10 R40, 60 R272 to R274). A
command's "exception" is a status code it leaves at completion: `State.fail` is the one operation that reports it; the
engine has no trap and no return from one (60 R276, R289). -/

namespace Sys2Proof.Machine

/-! ### Data memory -/

/-- The byte at an address, or none where its written mark is clear (20 R63). -/
def Memory.read : Memory → Nat → Option Byte
  | [], _ => none
  | (k, b) :: rest, a => if a = k then some b else Memory.read rest a

/-- Set the byte at an address and its written mark (20 R65). -/
def Memory.write : Memory → Nat → Byte → Memory
  | [], a, b => [(a, b)]
  | (k, c) :: rest, a, b =>
    if a < k then (a, b) :: (k, c) :: rest
    else if a = k then (a, b) :: rest
    else (k, c) :: Memory.write rest a b

/-- `MemRead(addr, n)` (20 R64): the n bytes from an address on, or none where one of them has no written mark. -/
def Memory.readBytes (m : Memory) : Nat → Nat → Option (List Byte)
  | _, 0 => some []
  | a, n + 1 =>
    match m.read a with
    | none => none
    | some b => (m.readBytes (a + 1) n).map (b :: ·)

/-- `MemWrite(addr, n, v)` (20 R65): the bytes of a string at consecutive rising addresses. -/
def Memory.writeBytes : Memory → Nat → List Byte → Memory
  | m, _, [] => m
  | m, a, b :: rest => Memory.writeBytes (m.write a b) (a + 1) rest

/-! ### Context slots -/

/-- The slot a CTX field names; there is one only when CTX < NUM_CTX (30 R94). -/
def State.slot? (s : State) (c : BitVec 4) : Option Slot :=
  if c.toNat < s.cfg.numCtx then s.slots[c.toNat]? else none

/-- Replace one slot (10 R48: a command writes only the slot it names). -/
def State.setSlot (s : State) (c : BitVec 4) (sl : Slot) : State :=
  { s with slots := s.slots.set c.toNat sl }

/-! ### Completion -/

/-- `fail(code, info)` (60 R273): the status and the result registers change and nothing else. -/
def State.fail (s : State) (code : Status) (info : Word) : State := s.complete code info 0 0

/-- The completion of a word that decodes to ILLEGAL (60 R278). -/
def State.illegal (s : State) : State := s.fail .illegalCommand 0

/-- Store an output string at DST_ADDR (20 R73). -/
def State.store (s : State) (out : List Byte) : State :=
  { s with mem := s.mem.writeBytes s.dstAddr.toNat out }

/-- `succeed(out, ver)` (60 R274). -/
def State.succeed (s : State) (out : List Byte) (ver : Byte) : State :=
  if s.dstCap.toNat < out.length then s.fail .outputOverflow 0
  else (s.store out).complete .ok 0 (BitVec.ofNat 32 out.length) ver

/-- What the computation of a command yields: an output string and a version byte, or a data error (60 R275 step 5). -/
inductive CmdResult where
  | ok (out : List Byte) (ver : Byte)
  | error (code : Status) (info : Word)
  deriving DecidableEq, Repr

/-- End a command with what its computation yielded (60 R273, R274). -/
def State.finish (s : State) : CmdResult → State
  | .ok out ver => s.succeed out ver
  | .error code info => s.fail code info

end Sys2Proof.Machine
end

