-- ==== Sys2Proof/Machine/Operands.lean ====
section
/-! DEFINITION. The operand forms: a command's operands are DMEM regions named by host registers (spec 20 R70, R71), and
there are three of them: source, key and destination. The checks come in the order of 60 R275. -/

namespace Sys2Proof.Machine

/-- `inRange(a, n)` (20 R70): the sum is on unbounded integers and does not wrap. -/
def inRange (cfg : Config) (a n : Word) : Bool := decide (a.toNat + n.toNat ≤ cfg.dmemSize)

/-- The source region (SRC_ADDR, SRC_LEN) is in range (20 R71). -/
def State.sourceInRange (s : State) : Bool := inRange s.cfg s.srcAddr s.srcLen

/-- The key region (KEY_ADDR, KEY_LEN) is in range (20 R71). -/
def State.keyInRange (s : State) : Bool := inRange s.cfg s.keyAddr s.keyLen

/-- The destination region is in range, at its full capacity DST_CAP (20 R71). -/
def State.destInRange (s : State) : Bool := inRange s.cfg s.dstAddr s.dstCap

/-- The source operand: the bytes of the source region, or none where one was never written (20 R64). -/
def State.sourceBytes (s : State) : Option (List Byte) := s.mem.readBytes s.srcAddr.toNat s.srcLen.toNat

/-- The key operand (20 R64, 41 R180). -/
def State.keyBytes (s : State) : Option (List Byte) := s.mem.readBytes s.keyAddr.toNat s.keyLen.toNat

/-- Go on with an operand that was read, or fault where a byte of it was never written (20 R63, 60 R286). -/
def withBytes (operand : Option (List Byte)) (k : List Byte → Host.Outcome State Fault Refusal) :
    Host.Outcome State Fault Refusal :=
  match operand with
  | none => .fault .uninitRead
  | some m => k m

/-- The shape that every one-shot command shares (20 R71, R72): check the source region, then the destination region,
read the source, compute, end. -/
def State.oneShot (s : State) (compute : List Byte → CmdResult) : Host.Outcome State Fault Refusal :=
  if !s.sourceInRange then .next (s.fail .addressRange 0)
  else if !s.destInRange then .next (s.fail .addressRange 0)
  else withBytes s.sourceBytes fun m => .next (s.finish (compute m))

end Sys2Proof.Machine
end

