-- ==== Sys2Proof/Machine/Base58.lean ====
section
/-! DEFINITION. The Base58 and Base58Check codec and its commands (spec 43 R220 to R243). Numbers are unbounded; the
digit loops carry a fuel that is large enough (log 11). -/

namespace Sys2Proof.Machine

/-! ### Alphabet -/

/-- ALPHABET: the ASCII byte of each digit value 0 to 57, by the rows of the table of 43 R220. -/
def alphabet : List Byte :=
  (List.range' 0x31 9 ++ List.range' 0x41 8 ++ List.range' 0x4A 5 ++ List.range' 0x50 11 ++ List.range' 0x61 11
    ++ List.range' 0x6D 14).map (BitVec.ofNat 8)

/-- The alphabet-zero character `1` (43 R220). -/
def zeroChar : Byte := 0x31

/-- A byte of the alphabet (43 R220). -/
def inAlphabet (ch : Byte) : Bool := alphabet.contains ch

/-- `index(ch)`, the digit value of an alphabet byte (43 R220). -/
def digitValue (ch : Byte) : Nat := alphabet.idxOf ch

/-! ### Base58 -/

/-- How many times a byte string begins with a byte: the z of 43 R221 and R222. -/
def leading (b : Byte) (s : List Byte) : Nat := (s.takeWhile (· == b)).length

/-- The loop of `B58Encode` (43 R221): put the digit of N mod 58 in front, go on with N div 58, until N = 0. -/
def base58Digits : Nat → Nat → List Byte → List Byte
  | 0, _, d => d
  | fuel + 1, n, d => if n = 0 then d else base58Digits fuel (n / 58) (alphabet.getD (n % 58) 0 :: d)

/-- `B58Encode(b)` (43 R221). -/
def b58Encode (b : List Byte) : List Byte :=
  List.replicate (leading 0 b) zeroChar ++ base58Digits (2 * b.length) (beNat b) []

/-- The big-endian bytes of N with no leading zero byte (43 R222). -/
def bigEndianBytes : Nat → Nat → List Byte → List Byte
  | 0, _, d => d
  | fuel + 1, n, d => if n = 0 then d else bigEndianBytes fuel (n / 256) (BitVec.ofNat 8 (n % 256) :: d)

/-- A data error of the codec (43 R222, R232). -/
inductive CodecError where
  | invalidCharacter (byte : Byte) (index : Nat)
  | tooShort
  | checksumMismatch
  deriving DecidableEq, Repr

/-- The first byte outside the alphabet and its index, from index i on (43 R222). -/
def firstInvalid : Nat → List Byte → Option (Byte × Nat)
  | _, [] => none
  | i, ch :: rest => if inAlphabet ch then firstInvalid (i + 1) rest else some (ch, i)

/-- The number a string of alphabet bytes writes in base 58 (43 R222). -/
def base58Nat (s : List Byte) : Nat := s.foldl (fun n ch => n * 58 + digitValue ch) 0

/-- `B58Decode(s)` (43 R222). -/
def b58Decode (s : List Byte) : Except CodecError (List Byte) :=
  match firstInvalid 0 s with
  | some (byte, index) => .error (.invalidCharacter byte index)
  | none => .ok (List.replicate (leading zeroChar s) 0 ++ bigEndianBytes s.length (base58Nat s) [])

/-! ### Base58Check -/

/-- `checksum(data)` (43 R230). -/
def checksum (data : List Byte) : List Byte := (sha256d data).take 4

/-- `B58CheckEncode(ver, payload)` (43 R231). -/
def b58CheckEncode (ver : Byte) (payload : List Byte) : List Byte :=
  let data := ver :: payload
  b58Encode (data ++ checksum data)

/-- `B58CheckDecode(s)` (43 R232): invalid character, then length, then checksum; the version byte and the payload. -/
def b58CheckDecode (s : List Byte) : Except CodecError (Byte × List Byte) :=
  match b58Decode s with
  | .error e => .error e
  | .ok b =>
    if b.length < 5 then .error .tooShort
    else
      let data := b.take (b.length - 4)
      if checksum data ≠ b.drop (b.length - 4) then .error .checksumMismatch
      else .ok (data.headD 0, data.drop 1)

/-! ### Commands -/

/-- The status and ERR_INFO of a data error (43 R241, R243, 10 R35). -/
def codecFailure : CodecError → CmdResult
  | .invalidCharacter byte index => .error .invalidCharacter ((BitVec.ofNat 32 index <<< 8) ||| byte.setWidth 32)
  | .tooShort => .error .tooShort 0
  | .checksumMismatch => .error .checksumMismatch 0

/-- B58_ENC (43 R240). -/
def execB58Enc (s : State) : Host.Outcome State Fault Refusal :=
  s.oneShot fun b => .ok (b58Encode b) 0

/-- B58_DEC (43 R241). -/
def execB58Dec (s : State) : Host.Outcome State Fault Refusal :=
  s.oneShot fun str =>
    match b58Decode str with
    | .error e => codecFailure e
    | .ok r => .ok r 0

/-- B58C_ENC (43 R242). RES_VER is the version byte (10 R34; log 8). -/
def execB58cEnc (ver : Byte) (s : State) : Host.Outcome State Fault Refusal :=
  s.oneShot fun p => .ok (b58CheckEncode ver p) ver

/-- B58C_DEC (43 R243). -/
def execB58cDec (s : State) : Host.Outcome State Fault Refusal :=
  s.oneShot fun str =>
    match b58CheckDecode str with
    | .error e => codecFailure e
    | .ok r => .ok r.2 r.1

end Sys2Proof.Machine
end

