-- ==== Sys2Proof/Machine/Address.lean ====
section
/-! DEFINITION. The address derivation pipeline: DERIVE_P2PKH and WRAP_P2SH (spec 44 R250 to R262). -/

namespace Sys2Proof.Machine

/-- The P2PKH version byte of a network (44 R250). -/
def p2pkhVersion : Net → Byte
  | .main => 0
  | .test => 111

/-- The P2SH version byte, for every network (44 R250, R261). -/
def p2shVersion : Byte := 5

/-- `Hash160(b)` (44 R251). -/
def hash160 (b : List Byte) : List Byte := digest .rmd160 (digest .sha256 b)

/-- The witness program of a payload (44 R252). -/
def witnessProgram (h : List Byte) : List Byte := 0x00 :: 0x14 :: h

/-- The payload of a valid P2PKH address, or none (44 R253). -/
def p2pkhPayload (s : List Byte) : Option (List Byte) :=
  match b58CheckDecode s with
  | .error _ => none
  | .ok r => if r.2.length = 20 ∧ (r.1 = 0 ∨ r.1 = 111) then some r.2 else none

/-- DERIVE_P2PKH (44 R260): the key's length is checked after the ranges and before the key is read. -/
def execDeriveP2pkh (net : Net) (s : State) : Host.Outcome State Fault Refusal :=
  if !s.sourceInRange then .next (s.fail .addressRange 0)
  else if !s.destInRange then .next (s.fail .addressRange 0)
  else if s.srcLen ≠ 33 then .next (s.fail .invalidPubkeyLength 0)
  else withBytes s.sourceBytes fun pub =>
    .next (s.finish (.ok (b58CheckEncode (p2pkhVersion net) (hash160 pub)) (p2pkhVersion net)))

/-- WRAP_P2SH (44 R261): every failure of the input is INVALID_ADDRESS. -/
def execWrapP2sh (s : State) : Host.Outcome State Fault Refusal :=
  s.oneShot fun str =>
    match p2pkhPayload str with
    | none => .error .invalidAddress 0
    | some h => .ok (b58CheckEncode p2shVersion (hash160 (witnessProgram h))) p2shVersion

end Sys2Proof.Machine
end

