-- ==== Sys2Proof/Machine/Context.lean ====
section
/-! DEFINITION. The streaming commands CTX_INIT, CTX_UPDATE and CTX_FINAL (spec 40 R150 to R152). A slot number the
engine does not have is ILLEGAL_COMMAND (30 R94, R100); the decoder already refuses such a word (log 10). -/

namespace Sys2Proof.Machine

/-- CTX_INIT (40 R150): legal in every lifecycle state; reads no register and no DMEM. -/
def execCtxInit (c : BitVec 4) (v : Variant) (s : State) : Host.Outcome State Fault Refusal :=
  match s.slot? c with
  | none => .next s.illegal
  | some _ => .next ((s.setSlot c (Slot.fresh v)).succeed [] 0)

/-- CTX_UPDATE (40 R151): the state check, the range check, the read, then the slot. -/
def execCtxUpdate (c : BitVec 4) (s : State) : Host.Outcome State Fault Refusal :=
  match s.slot? c with
  | none => .next s.illegal
  | some sl =>
    if sl.lstate = .empty ∨ sl.lstate = .finalized then .next (s.fail .invalidState 0)
    else if !s.sourceInRange then .next (s.fail .addressRange 0)
    else withBytes s.sourceBytes fun m => .next ((s.setSlot c (sl.update m)).succeed [] 0)

/-- CTX_FINAL (40 R152): a FINALIZED slot replays its latched digest; a live one is finalized, unless the digest does
not fit, which leaves it unchanged. -/
def execCtxFinal (c : BitVec 4) (s : State) : Host.Outcome State Fault Refusal :=
  match s.slot? c with
  | none => .next s.illegal
  | some sl =>
    if sl.lstate = .empty then .next (s.fail .invalidState 0)
    else if !s.destInRange then .next (s.fail .addressRange 0)
    else if sl.lstate = .finalized then .next (s.succeed sl.digestBytes 0)
    else if s.dstCap.toNat < digestLen sl.var then .next (s.fail .outputOverflow 0)
    else .next ((s.setSlot c sl.finalize).succeed sl.finalize.digestBytes 0)

end Sys2Proof.Machine
end

