-- ==== Sys2Proof/Machine/Hmac.lean ====
section
/-! DEFINITION. The HMAC construction and its command (spec 41 R180 to R184). -/

namespace Sys2Proof.Machine

/-- The digest variant of an HMAC variant (41 R183). -/
def macDigest : MacVariant → Variant
  | .sha256 => .sha256
  | .sha224 => .sha224

/-- K0: a key longer than 64 bytes is replaced by its digest, and the result is filled with zeros to 64 bytes
(41 R182). -/
def macKey (v : MacVariant) (key : List Byte) : List Byte :=
  let k := if 64 < key.length then digest (macDigest v) key else key
  k ++ List.replicate (64 - k.length) 0

/-- `HMAC_V(key, msg)` (41 R182). -/
def hmac (v : MacVariant) (key msg : List Byte) : List Byte :=
  let ipad := (macKey v key).map (· ^^^ 0x36)
  let opad := (macKey v key).map (· ^^^ 0x5c)
  digest (macDigest v) (opad ++ digest (macDigest v) (ipad ++ msg))

/-- HMAC (41 R183): the key region is checked first, then the source, then the destination. -/
def execHmac (v : MacVariant) (s : State) : Host.Outcome State Fault Refusal :=
  if !s.keyInRange then .next (s.fail .addressRange 0)
  else if !s.sourceInRange then .next (s.fail .addressRange 0)
  else if !s.destInRange then .next (s.fail .addressRange 0)
  else withBytes s.keyBytes fun key => withBytes s.sourceBytes fun msg => .next (s.finish (.ok (hmac v key msg) 0))

end Sys2Proof.Machine
end

