-- ==== Sys2Proof/Machine/OneShot.lean ====
section
/-! DEFINITION. The one-shot digest commands SHA256, SHA224 (spec 40 R153, R154) and RMD160 (42 R210). -/

namespace Sys2Proof.Machine

/-- SHA256 (40 R153). -/
def execSha256 (s : State) : Host.Outcome State Fault Refusal :=
  s.oneShot fun m => .ok (digest .sha256 m) 0

/-- SHA224 (40 R154). -/
def execSha224 (s : State) : Host.Outcome State Fault Refusal :=
  s.oneShot fun m => .ok (digest .sha224 m) 0

/-- RMD160 (42 R210). -/
def execRmd160 (s : State) : Host.Outcome State Fault Refusal :=
  s.oneShot fun m => .ok (digest .rmd160 m) 0

end Sys2Proof.Machine
end

