-- ==== Sys2Proof/Machine/Dispatch.lean ====
section
/-! DEFINITION. One arm per command (spec 30 R98): each is one call of the command's meaning. -/

namespace Sys2Proof.Machine

def exec (i : Instr) (s : State) : Host.Outcome State Fault Refusal :=
  match i with
  | .ctxInit c v => Sys2Proof.Machine.execCtxInit c v s
  | .ctxUpdate c => Sys2Proof.Machine.execCtxUpdate c s
  | .ctxFinal c => Sys2Proof.Machine.execCtxFinal c s
  | .sha256 => Sys2Proof.Machine.execSha256 s
  | .sha224 => Sys2Proof.Machine.execSha224 s
  | .rmd160 => Sys2Proof.Machine.execRmd160 s
  | .hmac v => Sys2Proof.Machine.execHmac v s
  | .b58Enc => Sys2Proof.Machine.execB58Enc s
  | .b58Dec => Sys2Proof.Machine.execB58Dec s
  | .b58cEnc ver => Sys2Proof.Machine.execB58cEnc ver s
  | .b58cDec => Sys2Proof.Machine.execB58cDec s
  | .deriveP2pkh net => Sys2Proof.Machine.execDeriveP2pkh net s
  | .wrapP2sh => Sys2Proof.Machine.execWrapP2sh s

end Sys2Proof.Machine
end

