-- ==== Sys2Proof/Machine/HostPort.lean ====
section
/-! DEFINITION. The HOST's accesses (spec 10 R23 to R39, 20 R62, R67, 70 R300 to R310): the register port, the data port
and reset. Each is one atomic step (20 R69). -/

namespace Sys2Proof.Machine

/-! ### The register map -/

/-- The index of each register on the port (10 R23). -/
def regIndex : Reg → BitVec 4
  | .id => 0
  | .cmd => 1
  | .status => 2
  | .srcAddr => 3
  | .srcLen => 4
  | .dstAddr => 5
  | .dstCap => 6
  | .keyAddr => 7
  | .keyLen => 8
  | .resLen => 9
  | .resVer => 10
  | .errInfo => 11
  | .ctxState => 12
  | .ctxVariant => 13
  | .config => 14
  | .reserved => 15

/-- The registers in the order of their indices (10 R23). -/
def regMap : List Reg :=
  [.id, .cmd, .status, .srcAddr, .srcLen, .dstAddr, .dstCap, .keyAddr] ++
  [.keyLen, .resLen, .resVer, .errInfo, .ctxState, .ctxVariant, .config, .reserved]

/-- The register at an index of the port (10 R23): every index names one. -/
def regOfIndex (i : BitVec 4) : Reg := regMap.getD i.toNat .reserved

/-! ### Computed registers -/

/-- The lifecycle code of a slot (10 R41). -/
def lstateCode : LState → BitVec 2
  | .empty => 0
  | .init => 1
  | .absorbing => 2
  | .finalized => 3

/-- The code CTX_VARIANT shows for a slot: 0 for an EMPTY one (10 R37). -/
def shownVariant (sl : Slot) : BitVec 2 := if sl.lstate = .empty then 0 else variantCode sl.var

/-- Two bits per slot, slot 0 in bits 1:0 (10 R36, R37). -/
def packSlots (code : Slot → BitVec 2) (slots : List Slot) : Word :=
  slots.foldr (fun sl rest => (rest <<< 2) ||| (code sl).setWidth 32) 0

/-- The identification value (10 R24). -/
def idWord : Word := 0x47430007

/-- CONFIG (10 R38): DMEM_AW in bits 7:0, NUM_CTX in bits 15:8. -/
def configWord (cfg : Config) : Word := 0#16 ++ BitVec.ofNat 8 cfg.numCtx ++ BitVec.ofNat 8 cfg.dmemAw

/-! ### The register port -/

/-- The value a host read of a register returns (10 R23 to R39). -/
def State.regRead (s : State) : Reg → Word
  | .id => idWord
  | .cmd => s.cmd
  | .status => statusWord s
  | .srcAddr => s.srcAddr
  | .srcLen => s.srcLen
  | .dstAddr => s.dstAddr
  | .dstCap => s.dstCap
  | .keyAddr => s.keyAddr
  | .keyLen => s.keyLen
  | .resLen => s.resLen
  | .resVer => s.resVer.setWidth 32
  | .errInfo => s.errInfo
  | .ctxState => packSlots (fun sl => lstateCode sl.lstate) s.slots
  | .ctxVariant => packSlots shownVariant s.slots
  | .config => configWord s.cfg
  | .reserved => 0

/-- What a host write of a register does while BUSY = 0 (10 R23): the operand registers are stored, CMD issues a
command, the others ignore the write. -/
def State.regWrite (s : State) (r : Reg) (v : Word) : State :=
  match r with
  | .cmd => s.issue v
  | .srcAddr => { s with srcAddr := v }
  | .srcLen => { s with srcLen := v }
  | .dstAddr => { s with dstAddr := v }
  | .dstCap => { s with dstCap := v }
  | .keyAddr => { s with keyAddr := v }
  | .keyLen => { s with keyLen := v }
  | .id => s
  | .status => s
  | .resLen => s
  | .resVer => s
  | .errInfo => s
  | .ctxState => s
  | .ctxVariant => s
  | .config => s
  | .reserved => s

/-- The registers the host may read while BUSY = 1 (70 R310). -/
def readableWhileBusy : Reg → Bool
  | .status => true
  | .id => true
  | .config => true
  | .cmd => true
  | _ => false

/-- The host's program records the value a read returned (30 R104). -/
def State.record (s : State) (x : Reading) : State := { s with readings := s.readings ++ [x] }

/-- `RD` of a register (30 R104, 70 R310). -/
def hostRead (r : Reg) (s : State) : Host.Outcome State Fault Refusal :=
  if s.busy && !readableWhileBusy r then .fault .hostHazard
  else .next (s.record (.reg r (s.regRead r)))

/-- `WR` of a register (30 R104, 70 R310). -/
def hostWrite (r : Reg) (v : Word) (s : State) : Host.Outcome State Fault Refusal :=
  if s.busy then .fault .hostHazard else .next (s.regWrite r v)

/-! ### The data port -/

/-- `MR` of one byte (20 R62, R63, 70 R310). -/
def hostMemRead (a : Nat) (s : State) : Host.Outcome State Fault Refusal :=
  if s.busy then .fault .hostHazard
  else if s.cfg.dmemSize ≤ a then .fault .noSuchAddress
  else
    match s.mem.read a with
    | none => .fault .uninitRead
    | some b => .next (s.record (.byte a b))

/-- `MW` of one byte (20 R62, R63, 70 R310). -/
def hostMemWrite (a : Nat) (b : Byte) (s : State) : Host.Outcome State Fault Refusal :=
  if s.busy then .fault .hostHazard
  else if s.cfg.dmemSize ≤ a then .fault .noSuchAddress
  else .next { s with mem := s.mem.write a b }

/-! ### Reset -/

/-- Reset (70 R300, R301, R303): every register, slot and written mark; a command in flight is abandoned. The
parameters stay, and what the host has still to do and has read is the host's own. -/
def State.afterReset (s : State) : State :=
  { State.resetOf s.cfg with script := s.script, readings := s.readings }

end Sys2Proof.Machine
end

