-- ==== Sys2Proof/Machine/Engine.lean ====
section
/-! DEFINITION. The two agents of a run (spec 00 R17): the ENGINE's step (70 R306), and what each event of the schedule
does (30 R104; log 2 and 3). -/

namespace Sys2Proof.Machine

/-- Decode CMD and run the command in full (70 R306); an illegal word completes with ILLEGAL_COMMAND (60 R278). -/
def runCommand (s : State) : Host.Outcome State Fault Refusal :=
  match decode s.cfg.numCtx s.cmd with
  | .error _ => .next s.illegal
  | .ok i => exec i s

/-- The ENGINE's step: while BUSY = 1 it runs the command in CMD; while BUSY = 0 it changes nothing (70 R306). -/
def engineStep (s : State) : Host.Outcome State Fault Refusal :=
  if s.busy then runCommand s else .next s

/-- `POLL`: repeat RD STATUS until DONE reads 1 (30 R104). A poll that reads DONE = 1 is over and records STATUS; until
then the ENGINE moves and the poll goes on (log 3). `later` is what comes after the poll. -/
def hostPoll (later : List Event) (s : State) : Host.Outcome State Fault Refusal :=
  if s.done then .next ({ s with script := later }.record (.reg .status (s.regRead .status)))
  else engineStep s

/-- The event at the head of the schedule; `later` is the rest of it. -/
def runEvent (e : Event) (later : List Event) (s : State) : Host.Outcome State Fault Refusal :=
  match e with
  | .engine => engineStep { s with script := later }
  | .reset => .next { s with script := later }.afterReset
  | .wr r v => hostWrite r v { s with script := later }
  | .rd r => hostRead r { s with script := later }
  | .mw a b => hostMemWrite a b { s with script := later }
  | .mr a => hostMemRead a { s with script := later }
  | .poll => hostPoll later s

/-- One step of the run: the next event, or, when the host has nothing more to do, the ENGINE (log 3). -/
def runStep (s : State) : Host.Outcome State Fault Refusal :=
  match s.script with
  | [] => engineStep s
  | e :: later => runEvent e later s

/-- An instruction of the opcode table given to the engine, so that the very next step runs it: the host's write of CMD
(70 R305) with nothing else pending (log 4). Bits at and above `nbits` are 0; a command is 32 bits (30 R90). -/
def State.withCommand (s : State) (nbits w : Nat) : State :=
  { s.issue (BitVec.ofNat 32 (w % 2 ^ nbits)) with script := [] }

end Sys2Proof.Machine
end

