-- ==== Sys2Proof/Machine/Step.lean ====
section
/-! DEFINITION. The step of the machine, and how the host places one command. -/

namespace Sys2Proof.Machine

/-- One step: the next event of the schedule, or the ENGINE's step (spec 70 R306; log 2 and 3). -/
def step (s : State) : Host.Outcome State Fault Refusal := runStep s

/-- The state with an opcode-table instruction placed where the next step takes it: in CMD, issued (70 R305; log 4). -/
def State.withFetchWord (s : State) (nbits w : Nat) : State := s.withCommand nbits w

end Sys2Proof.Machine
end

