-- ==== Sys2Proof/Machine/HostProgram.lean ====
section
/-! DEFINITION. The host program notation of spec 30 R104: each pseudo-instruction as the host operations it expands to.
`WR`, `RD`, `POLL` and one-byte `MW`, `MR` are events already. -/

namespace Sys2Proof.Machine

/-- `MW <addr>, <bytes>`: host DMEM writes at consecutive rising addresses. -/
def memWriteOps : Nat → List Byte → List Event
  | _, [] => []
  | a, b :: rest => .mw a b :: memWriteOps (a + 1) rest

/-- `MR <addr>, <n>`: n host DMEM reads at consecutive rising addresses. -/
def memReadOps : Nat → Nat → List Event
  | _, 0 => []
  | a, n + 1 => .mr a :: memReadOps (a + 1) n

/-- `ISSUE <command>`: one write of CMD. -/
def issueOps (i : Instr) : List Event := [.wr .cmd (encode i)]

/-- A command alone: ISSUE, then POLL. -/
def commandOps (i : Instr) : List Event := issueOps i ++ [.poll]

/-- `ARGS src, srclen, dst, dstcap`. -/
def argsOps (src srclen dst dstcap : Word) : List Event :=
  [.wr .srcAddr src, .wr .srcLen srclen, .wr .dstAddr dst, .wr .dstCap dstcap]

/-- `KEY addr, len`. -/
def keyOps (addr len : Word) : List Event := [.wr .keyAddr addr, .wr .keyLen len]

/-- The machine after reset with a host program to run. -/
def State.withProgram (s : State) (program : List Event) : State := { s with script := program }

end Sys2Proof.Machine
end

