-- ==== Sys2Proof/Safety.lean ====
section
/-! DEFINITION. What claims about the engine are stated in: the invariant of a slot and of a state (spec 10 R26, R33 to
R47, 20 R61, 40 R144), the end of a run and what it shows (70 R315), and a run that no fault ends (60 R286). -/

namespace Sys2Proof.Machine

/-- What holds of a context slot after every step. -/
structure Slot.Inv (sl : Slot) : Prop where
  /-- Only reset leaves a slot EMPTY, at the reset values (10 R40, 70 R303). -/
  emptyIsReset : sl.lstate = .empty → sl = Slot.reset
  /-- A slot in INIT is as CTX_INIT left it (10 R47). -/
  initIsFresh : sl.lstate = .init → sl = Slot.fresh sl.var
  /-- BUFLEN = TOTAL mod 64 in a live context (10 R45, 40 R144). -/
  bufferCount : sl.lstate = .init ∨ sl.lstate = .absorbing → sl.buflen.val = sl.total.toNat % 64
  /-- A RIPEMD-160 slot keeps H[5..7] at 0 (10 R43). -/
  rmdWords : sl.var = .rmd160 → sl.h.h5 = 0 ∧ sl.h.h6 = 0 ∧ sl.h.h7 = 0
  /-- DIGEST is written only by finalization (10 R46). -/
  noEarlyDigest : sl.lstate ≠ .finalized → sl.digest = Vector.replicate 32 0
  /-- A finalized slot has an empty buffer (40 R142) and zeros after its digest (10 R46). -/
  finalizedShape : sl.lstate = .finalized →
    sl.buflen = 0 ∧ sl.digest.toList.drop (digestLen sl.var) = List.replicate (32 - digestLen sl.var) 0

/-- What holds of a state after every step. -/
structure State.Inv (s : State) : Prop where
  /-- The parameters are legal (00 R9). -/
  cfgLegal : s.cfg.legal
  /-- There are NUM_CTX slots (10 R40). -/
  slotCount : s.slots.length = s.cfg.numCtx
  /-- Every slot keeps its invariant. -/
  slotsOk : ∀ sl ∈ s.slots, sl.Inv
  /-- The memory is in its canonical form. -/
  memWf : Memory.wf s.mem
  /-- Every written byte has an address below DMEM_SIZE (20 R61). -/
  memInside : ∀ x ∈ s.mem, x.1 < s.cfg.dmemSize
  /-- BUSY = 1 and DONE = 1 never hold together (10 R26). -/
  notBusyAndDone : ¬ (s.busy = true ∧ s.done = true)
  /-- ERR is one of the codes of 60 R270. -/
  errIsStatus : ∃ st, s.err = statusCode st
  /-- ERR is 0 until a command completes (10 R26). -/
  errClear : s.done = false → s.err = 0
  /-- A failed command has RES_LEN = 0 and RES_VER = 0 (10 R33, R34). -/
  failureIsEmpty : s.done = true → s.err ≠ 0 → s.resLen = 0 ∧ s.resVer = 0
  /-- ERR_INFO is 0 but for INVALID_CHARACTER (10 R35). -/
  infoOnlyForCharacter : s.done = true → s.err ≠ statusCode .invalidCharacter → s.errInfo = 0
  /-- RES_LEN is the length of an output, which lies in DMEM (10 R33, 20 R70, R73). -/
  resLenInDmem : s.resLen.toNat ≤ s.cfg.dmemSize

/-- A host program has ended: no event is left and no command is in flight (70 R315). DESIGN CHOICE (log 16): R315 asks
for the host's last operation and BUSY = 0; the model also waits for the ENGINE and reset events still in the schedule, so
that a reset scheduled after the last host operation comes before the observation. -/
def State.ended (s : State) : Bool := s.script.isEmpty && !s.busy

/-- What a run shows at its end: the sixteen registers (CTX_STATE and CTX_VARIANT among them) and DMEM with its written
marks (70 R315). Whether a fault was recorded is the outcome itself. -/
structure Observation where
  registers : List Word
  dmem : Memory
  deriving DecidableEq, Repr

/-- The observation of 70 R315. -/
def State.observe (s : State) : Observation := { registers := regMap.map s.regRead, dmem := s.mem }

/-- A run of k steps that no fault ends (60 R286: a fault is never cleared by a later step). -/
def SafeRun (k : Nat) (s : State) : Prop := ∃ t, Sys2Proof.core.run k s = .next t

/-! ### What a command leaves behind, as the rules write it out -/

/-- The state after a command that ends with status OK, an output string and a version byte: the output is stored at
DST_ADDR, the result registers and STATUS are written, and nothing else changes (60 R272, R274, 20 R73). -/
def State.afterOk (s : State) (out : List Byte) (ver : Byte) : State :=
  { s with
    mem := s.mem.writeBytes s.dstAddr.toNat out
    resLen := BitVec.ofNat 32 out.length
    resVer := ver
    errInfo := 0
    err := 0x00
    busy := false
    done := true }

/-- The state after a command that ends with an error: the result registers and STATUS are written, and nothing else
changes (60 R272, R273, R276). -/
def State.afterError (s : State) (code : Byte) (info : Word) : State :=
  { s with resLen := 0, resVer := 0, errInfo := info, err := code, busy := false, done := true }

/-- The source region lies in DMEM (20 R70). -/
def State.SourceInside (s : State) : Prop := s.srcAddr.toNat + s.srcLen.toNat ≤ 2 ^ s.cfg.dmemAw

/-- The key region lies in DMEM (20 R70). -/
def State.KeyInside (s : State) : Prop := s.keyAddr.toNat + s.keyLen.toNat ≤ 2 ^ s.cfg.dmemAw

/-- The destination region, at its full capacity, lies in DMEM (20 R70, R71). -/
def State.DestInside (s : State) : Prop := s.dstAddr.toNat + s.dstCap.toNat ≤ 2 ^ s.cfg.dmemAw

/-- The commands with a source region (20 R71). -/
def usesSource : Instr → Bool
  | .ctxInit _ _ => false
  | .ctxFinal _ => false
  | _ => true

/-- The command with a key region (20 R71). -/
def usesKey : Instr → Bool
  | .hmac _ => true
  | _ => false

/-- The commands with a destination region (20 R71). -/
def usesDest : Instr → Bool
  | .ctxInit _ _ => false
  | .ctxUpdate _ => false
  | _ => true

/-- The slot a command names, if it names one (10 R48). -/
def namedSlot : Instr → Option (BitVec 4)
  | .ctxInit c _ => some c
  | .ctxUpdate c => some c
  | .ctxFinal c => some c
  | _ => none

/-- The checks of 60 R275 steps 1 and 2 pass: a context command names a slot that is there, and in a lifecycle state the
command accepts (60 R283). -/
def stateCheckPasses (i : Instr) (s : State) : Prop :=
  match i with
  | .ctxInit c _ => ∃ sl, s.slot? c = some sl
  | .ctxUpdate c => ∃ sl, s.slot? c = some sl ∧ (sl.lstate = .init ∨ sl.lstate = .absorbing)
  | .ctxFinal c => ∃ sl, s.slot? c = some sl ∧ sl.lstate ≠ .empty
  | _ => True

/-- The check of 60 R275 step 4 passes: DERIVE_P2PKH has a key of 33 bytes (60 R284). -/
def lengthCheckPasses (i : Instr) (s : State) : Prop :=
  match i with
  | .deriveP2pkh _ => s.srcLen = 33
  | _ => True

/-- The codes each command can leave in STATUS.ERR (60 R270, R271). -/
def reportable : Instr → List Byte
  | .ctxInit _ _ => [0x00, 0x10]
  | .ctxUpdate _ => [0x00, 0x04, 0x10, 0x11]
  | .ctxFinal _ => [0x00, 0x04, 0x10, 0x11, 0x12]
  | .sha256 => [0x00, 0x11, 0x12]
  | .sha224 => [0x00, 0x11, 0x12]
  | .rmd160 => [0x00, 0x11, 0x12]
  | .hmac _ => [0x00, 0x11, 0x12]
  | .b58Enc => [0x00, 0x11, 0x12]
  | .b58Dec => [0x00, 0x01, 0x11, 0x12]
  | .b58cEnc _ => [0x00, 0x11, 0x12]
  | .b58cDec => [0x00, 0x01, 0x02, 0x03, 0x11, 0x12]
  | .deriveP2pkh _ => [0x00, 0x05, 0x11, 0x12]
  | .wrapP2sh => [0x00, 0x06, 0x11, 0x12]

/-- The change of LSTATE that a command may make in slot number `d` (10 R41). -/
def allowedTransition (i : Instr) (d : Nat) (before after : LState) : Prop :=
  match i with
  | .ctxInit c _ => c.toNat = d ∧ after = .init
  | .ctxUpdate c => c.toNat = d ∧ (before = .init ∨ before = .absorbing) ∧ after = .absorbing
  | .ctxFinal c => c.toNat = d ∧ (before = .init ∨ before = .absorbing ∨ before = .finalized) ∧ after = .finalized
  | _ => False

/-- A stream: CTX_UPDATE commands on slot `c` that end with status OK, each absorbing the next piece of a message. What
happens between two of them is free, but the slot stays as the one left it for the other (40 R143). -/
inductive Streamed (c : BitVec 4) : Slot → List (List Byte) → Slot → Prop where
  | nil (sl : Slot) : Streamed c sl [] sl
  | cons {s t : State} {sl mid last : Slot} {m : List Byte} {rest : List (List Byte)}
      (here : s.slot? c = some sl) (piece : s.sourceBytes = some m) (ran : exec (.ctxUpdate c) s = .next t)
      (ok : t.err = 0x00) (left : t.slot? c = some mid) (more : Streamed c mid rest last) :
      Streamed c sl (m :: rest) last

/-- The full 64-byte blocks of a message, in order (40 R144). -/
def fullBlocks (m : List Byte) : List (List Byte) :=
  (List.range (m.length / 64)).map fun k => (m.drop (64 * k)).take 64

end Sys2Proof.Machine
end

