-- ==== Sys2Proof/Certificates/Slice0/Obligations.lean ====
section
/-! DEFINITION. The statements about the engine that are left to the provers. Each docstring names the rule of the spec
that it formalises. `State.afterOk` and `State.afterError` (Safety.lean) write out every field a completion changes, so
an equation with one of them is a frame as well: every field it does not name is as before. Where a statement says that an
event leaves the script and that a reading is recorded, those two fields are the model's own (log 2). -/

open Sys2Proof Sys2Proof.Machine

/-! ### Encoding -/

/-- 30 R99, R100, R103: the word of a command the engine has decodes to that command, with every operand at every value
the encoding admits. -/
def Obligations.DecodeOfEncodeIsTheCommand : Prop :=
  ∀ (numCtx : Nat) (i : Instr), i.wellFormed numCtx = true → decode numCtx (encode i) = .ok i

/-- 30 R100: a word that decodes to a command is that command's word, so no bit of it is dropped, and the command is one
the engine has. -/
def Obligations.DecodedWordIsTheCommandsWord : Prop :=
  ∀ (numCtx : Nat) (w : Word) (i : Instr), decode numCtx w = .ok i →
    encode i = w ∧ i.wellFormed numCtx = true

/-- 30 R99: "No two rows match the same word". -/
def Obligations.NoWordMatchesTwoRows : Prop :=
  ∀ (m n : Fin rows.length) (w : Word), rows[m].selects w = true → rows[n].selects w = true → m = n

/-- 30 R101: the reserved space, exactly: a word is illegal when its OP is not listed, a reserved bit is set, a field
its command does not use is not zero, VAR = 3 in CTX_INIT, VAR[1] = 1 in HMAC, or CTX ≥ NUM_CTX in a context command;
every other word is a command. -/
def Obligations.ReservedSpaceIsExactlyTheIllegalWords : Prop :=
  ∀ (numCtx : Nat) (w : Word),
    (∃ e, decode numCtx w = .error e) ↔
      (opField w ∉ ([0x01, 0x02, 0x03, 0x10, 0x11, 0x12, 0x13, 0x20, 0x21, 0x22, 0x23, 0x30, 0x31] : List Byte)) ∨
      w.extractLsb' 15 1 ≠ 0 ∨ w.extractLsb' 24 8 ≠ 0 ∨
      (opField w ∉ ([0x01, 0x02, 0x03] : List Byte) ∧ ctxField w ≠ 0) ∨
      (opField w ∉ ([0x01, 0x13] : List Byte) ∧ varField w ≠ 0) ∨
      (opField w ≠ 0x30 ∧ netField w ≠ 0) ∨
      (opField w ≠ 0x22 ∧ verField w ≠ 0) ∨
      (opField w = 0x01 ∧ varField w = 3) ∨
      (opField w = 0x13 ∧ (varField w).getLsbD 1 = true) ∨
      (opField w ∈ ([0x01, 0x02, 0x03] : List Byte) ∧ numCtx ≤ (ctxField w).toNat)

/-- 30 R103: the example words of the rule, and one more of each family, decode to what they stand for. -/
def Obligations.SampleWordsDecode : Prop :=
  decode 4 0x00001101 = .ok (.ctxInit 1 .sha224) ∧ decode 4 0x00002301 = .ok (.ctxInit 3 .rmd160) ∧
    decode 4 0x00000102 = .ok (.ctxUpdate 1) ∧ decode 4 0x00000010 = .ok .sha256 ∧
    decode 4 0x00000012 = .ok .rmd160 ∧ decode 4 0x00001013 = .ok (.hmac .sha224) ∧
    decode 4 0x006F0022 = .ok (.b58cEnc 111) ∧ decode 4 0x00004030 = .ok (.deriveP2pkh .test) ∧
    decode 4 0x00000031 = .ok .wrapP2sh

/-! ### The step -/

/-- 70 R306: while BUSY = 1 the ENGINE's step runs the command that CMD decodes to. The ENGINE moves when the schedule
says so, when the host has nothing more to do, and while a POLL waits (the model's choices, log 2 and 3); the script is
popped by an engine event and kept by a waiting POLL. -/
def Obligations.StepRunsTheDecodedCommand : Prop :=
  ∀ (s : State) (i : Instr), s.busy = true → decode s.cfg.numCtx s.cmd = .ok i →
    (s.script = [] → step s = exec i s) ∧
    (∀ later, s.script = .engine :: later → step s = exec i { s with script := later }) ∧
    (∀ later, s.script = .poll :: later → s.done = false → step s = exec i s)

/-- 30 R100, 60 R278: a word that decodes to ILLEGAL completes with ILLEGAL_COMMAND and changes nothing but STATUS and the
result registers. That the ENGINE moves when the schedule says so, when the host has nothing more to do, and while a POLL
waits is the model's choice (log 2 and 3). -/
def Obligations.IllegalWordCompletesWithIllegalCommand : Prop :=
  ∀ (s : State) (e : Illegal), s.busy = true → decode s.cfg.numCtx s.cmd = .error e →
    (s.script = [] → step s = .next (s.afterError 0x10 0)) ∧
    (∀ later, s.script = .engine :: later → step s = .next ({ s with script := later }.afterError 0x10 0)) ∧
    (∀ later, s.script = .poll :: later → s.done = false → step s = .next (s.afterError 0x10 0))

/-- 70 R306: "While BUSY = 0 the engine has no step and changes nothing." That an engine
event of the schedule is used up, and that the ENGINE's turn comes when the host has nothing more to do, is the model's
choice (log 2 and 3). -/
def Obligations.IdleEngineChangesNothing : Prop :=
  ∀ s : State, s.busy = false →
    (s.script = [] → step s = .next s) ∧
    (∀ later, s.script = .engine :: later → step s = .next { s with script := later })

/-- The model's choice (log 3), after 30 R104: POLL ends at the first STATUS with DONE = 1, which it records; while
neither bit is set it goes on for ever. -/
def Obligations.PollEndsWhenDoneReadsOne : Prop :=
  ∀ (s : State) (later : List Event), s.script = .poll :: later →
    (s.done = true →
      step s = .next { s with script := later, readings := s.readings ++ [.reg .status (s.regRead .status)] }) ∧
    (s.done = false → s.busy = false → step s = .next s)

/-- The model's placing of one opcode-table word (log 4 and 9): the next step runs the command the table word decodes
to, on an engine with the default parameters. -/
def Obligations.PlacedWordRunsNext : Prop :=
  ∀ (s : State) (w : Nat) (i : Instr), s.cfg = Config.default → decodeTableWord 32 w = some i →
    step (s.withFetchWord 32 w) =
      exec i { s with cmd := BitVec.ofNat 32 w, busy := true, done := false, err := 0, script := [] }

/-! ### Invariants and reset -/

/-- The invariant holds after reset, for every legal choice of the parameters (70 R300, R301). -/
def Obligations.ResetHasTheInvariant : Prop :=
  (∀ cfg : Config, cfg.legal → (State.resetOf cfg).Inv) ∧ State.reset.Inv

/-- Every step keeps the invariant: the parameters stay legal, there are NUM_CTX slots, memory keeps its canonical form
and its bound, BUSY and DONE are never both 1, ERR is a code of 60 R270, the result registers are empty after a failure,
and every slot keeps BUFLEN = TOTAL mod 64, its RIPEMD-160 zeros and the shape of its digest (10 R26, R33 to R47). -/
def Obligations.StepKeepsTheInvariant : Prop :=
  ∀ s t : State, s.Inv → step s = .next t → t.Inv

/-- 10 R20, 00 R9: NUM_CTX and DMEM_AW are "fixed for the life of the engine", and the number of slots with them. -/
def Obligations.NoStepChangesTheParameters : Prop :=
  ∀ s t : State, s.slots.length = s.cfg.numCtx → step s = .next t →
    t.cfg = s.cfg ∧ t.slots.length = s.slots.length

/-- What reset leaves, whatever was in flight: every register at the value of 10 R23's reset column and every slot at the
values of 10 R40 (70 R300), and every written mark clear, so that no byte can be read (70 R301). The clauses about script
and readings, that what the host has still to do and has recorded survives a reset, are the model's choice (log 2 and
13). -/
def Obligations.ResetSetsEveryRegisterAndSlot : Prop :=
  ∀ (s : State) (later : List Event), s.cfg.legal → s.script = .reset :: later →
    ∃ t, step s = .next t ∧ t.cfg = s.cfg ∧ t.script = later ∧ t.readings = s.readings ∧
      regMap.map t.regRead =
        [0x47430007, 0, 0, 0, 0, 0, 0, 0, 0, 0, 0, 0, 0, 0, BitVec.ofNat 32 (s.cfg.numCtx * 256 + s.cfg.dmemAw), 0] ∧
      t.slots.length = s.cfg.numCtx ∧
      (∀ sl ∈ t.slots, sl.lstate = .empty ∧ sl.var = .sha256 ∧ sl.h = ⟨0, 0, 0, 0, 0, 0, 0, 0⟩ ∧
        sl.buf = Vector.replicate 64 0 ∧ sl.buflen = 0 ∧ sl.total = 0 ∧ sl.digest = Vector.replicate 32 0) ∧
      ∀ a : Nat, t.mem.read a = none

/-! ### The register port -/

/-- 10 R23: each index of the port names one register and each register has one index. -/
def Obligations.EveryIndexNamesOneRegister : Prop :=
  (∀ i : BitVec 4, regIndex (regOfIndex i) = i) ∧ (∀ r : Reg, regOfIndex (regIndex r) = r)

/-- 10 R26: the fields of STATUS, the reserved bits reading 0. -/
def Obligations.StatusShowsBusyDoneAndErr : Prop :=
  ∀ s : State,
    (s.regRead .status).getLsbD 0 = s.busy ∧ (s.regRead .status).getLsbD 1 = s.done ∧
    (s.regRead .status).extractLsb' 8 8 = s.err ∧
    (s.regRead .status).extractLsb' 2 6 = 0 ∧ (s.regRead .status).extractLsb' 16 16 = 0

/-- 10 R36: CTX_STATE shows the lifecycle code of every slot, two bits each, and 0 above; it is read-only. -/
def Obligations.CtxStateShowsEveryLifecycle : Prop :=
  (∀ (s : State) (c : Nat), s.slots.length = s.cfg.numCtx → s.cfg.numCtx ≤ 16 → c < 16 →
    (s.regRead .ctxState).extractLsb' (2 * c) 2 =
      match s.slots[c]? with
      | some sl => (match sl.lstate with | .empty => 0 | .init => 1 | .absorbing => 2 | .finalized => 3)
      | none => 0) ∧
  (∀ (s : State) (v : Word) (later : List Event), s.busy = false → s.script = .wr .ctxState v :: later →
    step s = .next { s with script := later })

/-- 10 R37: CTX_VARIANT shows the VAR code of every slot that is not EMPTY, two bits each, and 0 elsewhere; it is
read-only. -/
def Obligations.CtxVariantShowsEveryVariant : Prop :=
  (∀ (s : State) (c : Nat), s.slots.length = s.cfg.numCtx → s.cfg.numCtx ≤ 16 → c < 16 →
    (s.regRead .ctxVariant).extractLsb' (2 * c) 2 =
      match s.slots[c]? with
      | some sl =>
        if sl.lstate = .empty then 0 else (match sl.var with | .sha256 => 0 | .sha224 => 1 | .rmd160 => 2)
      | none => 0) ∧
  (∀ (s : State) (v : Word) (later : List Event), s.busy = false → s.script = .wr .ctxVariant v :: later →
    step s = .next { s with script := later })

/-- 70 R305: "A host write of value w to CMD while BUSY = 0 performs, as one step": the issue, and nothing else. -/
def Obligations.CmdWriteIssuesACommand : Prop :=
  ∀ (s : State) (w : Word) (later : List Event), s.busy = false → s.script = .wr .cmd w :: later →
    step s = .next { s with script := later, cmd := w, busy := true, done := false, err := 0x00 }

/-- 10 R22, R27 to R32: a host write of an operand register while BUSY = 0 stores all 32 bits; every other register reads
as before, and no slot or byte of memory changes. -/
def Obligations.OperandWriteStoresThatRegisterOnly : Prop :=
  ∀ (s : State) (r : Reg) (v : Word) (later : List Event),
    r ∈ [Reg.srcAddr, .srcLen, .dstAddr, .dstCap, .keyAddr, .keyLen] →
    s.busy = false → s.script = .wr r v :: later →
    ∃ t, step s = .next t ∧ t.regRead r = v ∧ (∀ r', r' ≠ r → t.regRead r' = s.regRead r') ∧
      t.cfg = s.cfg ∧ t.slots = s.slots ∧ t.mem = s.mem ∧ t.script = later ∧ t.readings = s.readings

/-- 10 R23, R39: "A host write to a read-only register has no effect", nor has one to the reserved register. -/
def Obligations.ReadOnlyWriteHasNoEffect : Prop :=
  ∀ (s : State) (r : Reg) (v : Word) (later : List Event),
    r ∈ [Reg.id, .status, .resLen, .resVer, .errInfo, .ctxState, .ctxVariant, .config, .reserved] →
    s.busy = false → s.script = .wr r v :: later → step s = .next { s with script := later }

/-- 10 R23, 20 R69: a host read while BUSY = 0 returns the register's value and has no side effect. -/
def Obligations.RegisterReadReturnsTheValue : Prop :=
  ∀ (s : State) (r : Reg) (later : List Event), s.busy = false → s.script = .rd r :: later →
    step s = .next { s with script := later, readings := s.readings ++ [.reg r (s.regRead r)] }

/-- 70 R310: the host hazard, exactly. While BUSY = 1 the host may read STATUS, ID, CONFIG and CMD; every other host access
is the fault HostHazard. -/
def Obligations.HostHazardIsExactlyTheForbiddenAccesses : Prop :=
  ∀ (s : State) (later : List Event), s.busy = true →
    (∀ r v, s.script = .wr r v :: later → step s = .fault .hostHazard) ∧
    (∀ r, s.script = .rd r :: later → r ∉ [Reg.status, .id, .config, .cmd] → step s = .fault .hostHazard) ∧
    (∀ a, s.script = .mr a :: later → step s = .fault .hostHazard) ∧
    (∀ a b, s.script = .mw a b :: later → step s = .fault .hostHazard) ∧
    (∀ r, s.script = .rd r :: later → r ∈ [Reg.status, .id, .config, .cmd] →
      step s = .next { s with script := later, readings := s.readings ++ [.reg r (s.regRead r)] })

/-! ### The data port -/

/-- 20 R62, R63: a byte the host writes through the data port reads back, every other byte reads as before, and nothing
else changes. -/
def Obligations.DataPortWriteThenRead : Prop :=
  ∀ (s : State) (a : Nat) (b : Byte) (later : List Event), s.busy = false → a < 2 ^ s.cfg.dmemAw →
    s.script = .mw a b :: .mr a :: later →
    ∃ t u, step s = .next t ∧ step t = .next u ∧ (∀ a', a' ≠ a → t.mem.read a' = s.mem.read a') ∧
      t = { s with script := .mr a :: later, mem := t.mem } ∧
      u = { t with script := later, readings := s.readings ++ [.byte a b] }

/-- 20 R63, 70 R311: a host read of a byte whose written mark is clear is the fault UninitRead. -/
def Obligations.HostReadOfUnwrittenByteFaults : Prop :=
  ∀ (s : State) (a : Nat) (later : List Event), s.busy = false → a < 2 ^ s.cfg.dmemAw →
    s.mem.read a = none → s.script = .mr a :: later → step s = .fault .uninitRead

/-- The model's choice (log 7), after 20 R62: an address the port's DMEM_AW bits cannot carry is a fault of its own. -/
def Obligations.AddressBeyondThePortFaults : Prop :=
  ∀ (s : State) (a : Nat) (b : Byte) (later : List Event), s.busy = false → 2 ^ s.cfg.dmemAw ≤ a →
    (s.script = .mr a :: later → step s = .fault .noSuchAddress) ∧
    (s.script = .mw a b :: later → step s = .fault .noSuchAddress)

/-! ### Commands: what each completes with -/

/-- 40 R150: CTX_INIT creates a context in INIT, whatever the slot held, and leaves everything else alone. -/
def Obligations.CtxInitCreatesAContext : Prop :=
  ∀ (s : State) (c : BitVec 4) (v : Variant) (sl : Slot), s.slot? c = some sl →
    exec (.ctxInit c v) s = .next { s.afterOk [] 0 with
      slots := s.slots.set c.toNat
        { lstate := .init, var := v,
          h := (match v with
            | .sha256 =>
              ⟨0x6a09e667, 0xbb67ae85, 0x3c6ef372, 0xa54ff53a, 0x510e527f, 0x9b05688c, 0x1f83d9ab, 0x5be0cd19⟩
            | .sha224 =>
              ⟨0xc1059ed8, 0x367cd507, 0x3070dd17, 0xf70e5939, 0xffc00b31, 0x68581511, 0x64f98fa7, 0xbefa4fa4⟩
            | .rmd160 => ⟨0x67452301, 0xefcdab89, 0x98badcfe, 0x10325476, 0xc3d2e1f0, 0, 0, 0⟩),
          buf := Vector.replicate 64 0, buflen := 0, total := 0, digest := Vector.replicate 32 0 } }

/-- 40 R151: CTX_UPDATE absorbs the source bytes into a live slot, adds SRC_LEN to TOTAL and moves the slot to ABSORBING;
nothing is stored in DMEM. -/
def Obligations.CtxUpdateAbsorbsTheSource : Prop :=
  ∀ (s : State) (c : BitVec 4) (sl : Slot) (m : List Byte),
    s.slot? c = some sl → (sl.lstate = .init ∨ sl.lstate = .absorbing) →
    s.SourceInside → s.sourceBytes = some m →
    exec (.ctxUpdate c) s = .next { s.afterOk [] 0 with
      slots := s.slots.set c.toNat
        { sl.absorb m with total := sl.total + s.srcLen.setWidth 64, lstate := .absorbing } }

/-- 40 R152, R142: CTX_FINAL pads a live slot, latches its digest, moves it to FINALIZED and writes the digest; where the
digest does not fit, the slot is unchanged. -/
def Obligations.CtxFinalWritesTheDigest : Prop :=
  ∀ (s : State) (c : BitVec 4) (sl : Slot),
    s.slot? c = some sl → (sl.lstate = .init ∨ sl.lstate = .absorbing) → s.DestInside →
    (digestLen sl.var ≤ s.dstCap.toNat →
      ∃ new : Slot,
        exec (.ctxFinal c) s = .next { s.afterOk
          (digestOut sl.var (sl.absorb (padding sl.var sl.total)).h) 0 with slots := s.slots.set c.toNat new } ∧
        new = { sl.absorb (padding sl.var sl.total) with lstate := .finalized, digest := new.digest } ∧
        new.digest.toList = digestOut sl.var (sl.absorb (padding sl.var sl.total)).h
          ++ List.replicate (32 - digestLen sl.var) 0) ∧
    (s.dstCap.toNat < digestLen sl.var → exec (.ctxFinal c) s = .next (s.afterError 0x12 0))

/-- 40 R152, 10 R46: CTX_FINAL on a FINALIZED slot writes the latched digest again and changes no slot. -/
def Obligations.CtxFinalReplaysTheLatchedDigest : Prop :=
  ∀ (s : State) (c : BitVec 4) (sl : Slot),
    s.slot? c = some sl → sl.lstate = .finalized → s.DestInside →
    (digestLen sl.var ≤ s.dstCap.toNat →
      exec (.ctxFinal c) s = .next (s.afterOk (sl.digest.toList.take (digestLen sl.var)) 0)) ∧
    (s.dstCap.toNat < digestLen sl.var → exec (.ctxFinal c) s = .next (s.afterError 0x12 0))

/-- 60 R283: CTX_UPDATE on a slot that is EMPTY or FINALIZED, and CTX_FINAL on one that is EMPTY, report INVALID_STATE,
whatever the operand registers hold. -/
def Obligations.WrongLifecycleIsInvalidState : Prop :=
  ∀ (s : State) (c : BitVec 4) (sl : Slot), s.slot? c = some sl →
    (sl.lstate = .empty ∨ sl.lstate = .finalized → exec (.ctxUpdate c) s = .next (s.afterError 0x04 0)) ∧
    (sl.lstate = .empty → exec (.ctxFinal c) s = .next (s.afterError 0x04 0))

/-- The model's choice (log 10), after 30 R94, R100 and 60 R278: exec of a context command that names a slot the engine
does not have, which the decoder refuses already, completes with ILLEGAL_COMMAND. -/
def Obligations.MissingSlotIsIllegalCommand : Prop :=
  ∀ (s : State) (c : BitVec 4), s.cfg.numCtx ≤ c.toNat →
    (∀ v, exec (.ctxInit c v) s = .next (s.afterError 0x10 0)) ∧
    exec (.ctxUpdate c) s = .next (s.afterError 0x10 0) ∧
    exec (.ctxFinal c) s = .next (s.afterError 0x10 0)

/-- 40 R153, R154, 42 R210: the one-shot digest commands write the digest of the source bytes, read before anything is
written (20 R72). -/
def Obligations.OneShotDigestsWriteTheDigest : Prop :=
  ∀ (i : Instr) (v : Variant) (s : State) (m : List Byte),
    (i, v) ∈ [(Instr.sha256, Variant.sha256), (.sha224, .sha224), (.rmd160, .rmd160)] →
    s.SourceInside → s.DestInside → s.sourceBytes = some m →
    (digestLen v ≤ s.dstCap.toNat → exec i s = .next (s.afterOk (digest v m) 0)) ∧
    (s.dstCap.toNat < digestLen v → exec i s = .next (s.afterError 0x12 0))

/-- 41 R182, R183: HMAC writes `Digest(opad ‖ Digest(ipad ‖ msg))`, a key longer than 64 bytes first replaced by its
digest, the key filled with zeros to 64 bytes. -/
def Obligations.HmacWritesTheMac : Prop :=
  ∀ (v : MacVariant) (d : Variant) (s : State) (key msg : List Byte),
    (v, d) ∈ [(MacVariant.sha256, Variant.sha256), (.sha224, .sha224)] →
    s.KeyInside → s.SourceInside → s.DestInside → s.keyBytes = some key → s.sourceBytes = some msg →
    (digestLen d ≤ s.dstCap.toNat →
      ∃ k0 : List Byte, k0.length = 64 ∧
        (key.length ≤ 64 → k0 = key ++ List.replicate (64 - key.length) 0) ∧
        (64 < key.length → k0 = digest d key ++ List.replicate (64 - digestLen d) 0) ∧
        exec (.hmac v) s = .next (s.afterOk
          (digest d (k0.map (· ^^^ 0x5c) ++ digest d (k0.map (· ^^^ 0x36) ++ msg))) 0)) ∧
    (s.dstCap.toNat < digestLen d → exec (.hmac v) s = .next (s.afterError 0x12 0))

/-- 43 R240, R242: B58_ENC and B58C_ENC write the encoding of the source bytes; RES_VER is the version byte of B58C_ENC
and 0 of B58_ENC (10 R34; log 8). -/
def Obligations.Base58EncodersWriteTheString : Prop :=
  ∀ (i : Instr) (out : List Byte) (ver : Byte) (s : State) (b : List Byte),
    s.SourceInside → s.DestInside → s.sourceBytes = some b →
    ((i = .b58Enc ∧ out = b58Encode b ∧ ver = 0) ∨
      (i = .b58cEnc ver ∧ out = b58Encode (ver :: b ++ (digest .sha256 (digest .sha256 (ver :: b))).take 4))) →
    (out.length ≤ s.dstCap.toNat → exec i s = .next (s.afterOk out ver)) ∧
    (s.dstCap.toNat < out.length → exec i s = .next (s.afterError 0x12 0))

/-- 43 R241, R222: B58_DEC writes the decoded bytes: one zero byte for each leading `1`, then the big-endian bytes of the
number, which do not start with a zero byte. -/
def Obligations.Base58DecodeWritesTheBytes : Prop :=
  ∀ (s : State) (str : List Byte),
    s.SourceInside → s.DestInside → s.sourceBytes = some str → (∀ ch ∈ str, ch ∈ alphabet) →
    ∃ body : List Byte, beNat body = base58Nat str ∧ body.head? ≠ some 0 ∧
      ((leading zeroChar str + body.length ≤ s.dstCap.toNat →
        exec .b58Dec s = .next (s.afterOk (List.replicate (leading zeroChar str) 0 ++ body) 0)) ∧
       (s.dstCap.toNat < leading zeroChar str + body.length → exec .b58Dec s = .next (s.afterError 0x12 0)))

/-- 43 R222, R241, R243, 10 R35, 60 R277: the first byte outside the alphabet is reported by B58_DEC and B58C_DEC, with its
index in ERR_INFO bits 31:8 and the byte in bits 7:0, whatever follows it and whatever DST_CAP is. -/
def Obligations.FirstInvalidCharacterIsReported : Prop :=
  ∀ (s : State) (str : List Byte) (k : Nat) (h : k < str.length),
    s.cfg.legal → s.SourceInside → s.DestInside → s.sourceBytes = some str →
    str[k] ∉ alphabet → (∀ (j : Nat) (hj : j < k), str[j] ∈ alphabet) →
    ∃ info : Word, info.extractLsb' 0 8 = str[k] ∧ (info.extractLsb' 8 24).toNat = k ∧
      exec .b58Dec s = .next (s.afterError 0x01 info) ∧ exec .b58cDec s = .next (s.afterError 0x01 info)

/-- 43 R232, R243: B58C_DEC on a string that decodes: fewer than five bytes are TOO_SHORT; else a checksum that is not the
recomputed one is CHECKSUM_MISMATCH; else the payload is written and RES_VER is the version byte. -/
def Obligations.Base58CheckDecodeChecksThenWrites : Prop :=
  ∀ (s : State) (str b : List Byte),
    s.SourceInside → s.DestInside → s.sourceBytes = some str → b58Decode str = .ok b →
    (b.length < 5 → exec .b58cDec s = .next (s.afterError 0x03 0)) ∧
    (∀ (ver : Byte) (payload cs : List Byte), b = ver :: payload ++ cs → cs.length = 4 →
      (cs ≠ (digest .sha256 (digest .sha256 (ver :: payload))).take 4 →
        exec .b58cDec s = .next (s.afterError 0x02 0)) ∧
      (cs = (digest .sha256 (digest .sha256 (ver :: payload))).take 4 →
        (payload.length ≤ s.dstCap.toNat → exec .b58cDec s = .next (s.afterOk payload ver)) ∧
        (s.dstCap.toNat < payload.length → exec .b58cDec s = .next (s.afterError 0x12 0))))

/-- 44 R250, R251, R260: DERIVE_P2PKH of a 33-byte key writes the Base58Check string of its Hash160 with version 0 or 111,
which has at most 34 characters, so a capacity of 34 always suffices. -/
def Obligations.DeriveP2pkhWritesTheAddress : Prop :=
  ∀ (net : Net) (ver : Byte) (s : State) (pub : List Byte),
    (net, ver) ∈ [(Net.main, 0), (Net.test, 111)] →
    s.SourceInside → s.DestInside → s.srcLen = 33 → s.sourceBytes = some pub →
    ∃ out : List Byte, out = b58CheckEncode ver (digest .rmd160 (digest .sha256 pub)) ∧ out.length ≤ 34 ∧
      (out.length ≤ s.dstCap.toNat → exec (.deriveP2pkh net) s = .next (s.afterOk out ver)) ∧
      (s.dstCap.toNat < out.length → exec (.deriveP2pkh net) s = .next (s.afterError 0x12 0))

/-- 60 R284: DERIVE_P2PKH with SRC_LEN ≠ 33 reports INVALID_PUBKEY_LENGTH, without reading the key. -/
def Obligations.WrongKeyLengthIsReported : Prop :=
  ∀ (net : Net) (s : State), s.SourceInside → s.DestInside → s.srcLen ≠ 33 →
    exec (.deriveP2pkh net) s = .next (s.afterError 0x05 0)

/-- 44 R252, R253, R261: WRAP_P2SH of a valid P2PKH address writes the Base58Check string, with version 5, of the Hash160 of
its witness program; the string has at most 34 characters and starts with `3`. -/
def Obligations.WrapP2shWritesTheAddress : Prop :=
  ∀ (s : State) (str h : List Byte) (ver : Byte),
    s.SourceInside → s.DestInside → s.sourceBytes = some str →
    b58CheckDecode str = .ok (ver, h) → h.length = 20 → (ver = 0 ∨ ver = 111) →
    ∃ out : List Byte, out = b58CheckEncode 5 (digest .rmd160 (digest .sha256 ([0x00, 0x14] ++ h))) ∧
      out.length ≤ 34 ∧ out.head? = some 0x33 ∧
      (out.length ≤ s.dstCap.toNat → exec .wrapP2sh s = .next (s.afterOk out 5)) ∧
      (s.dstCap.toNat < out.length → exec .wrapP2sh s = .next (s.afterError 0x12 0))

/-- 44 R253, 60 R285: WRAP_P2SH on a string that is not a valid P2PKH address reports INVALID_ADDRESS with ERR_INFO = 0 and
RES_LEN = 0, whatever the reason. -/
def Obligations.InvalidAddressIsReported : Prop :=
  ∀ (s : State) (str : List Byte), s.SourceInside → s.DestInside → s.sourceBytes = some str →
    ¬ (∃ (ver : Byte) (h : List Byte), b58CheckDecode str = .ok (ver, h) ∧ h.length = 20 ∧ (ver = 0 ∨ ver = 111)) →
    exec .wrapP2sh s = .next (s.afterError 0x06 0)

/-- 20 R70, R71, 60 R279: a region that a command checks and that does not lie in DMEM makes it complete with ADDRESS_RANGE,
before its key length or its data are looked at, and after the slot checks (60 R275). -/
def Obligations.RegionOutsideDmemIsAddressRange : Prop :=
  ∀ (i : Instr) (s : State), stateCheckPasses i s →
    ((usesKey i = true ∧ ¬ s.KeyInside) ∨ (usesSource i = true ∧ ¬ s.SourceInside) ∨
      (usesDest i = true ∧ ¬ s.DestInside)) →
    exec i s = .next (s.afterError 0x11 0)

/-- 20 R63, R64, 60 R275, R286: a command faults exactly when it comes to read its operands and one of their bytes was
never written, and the fault is UninitRead; no command is refused. -/
def Obligations.CommandFaultsExactlyOnUnwrittenOperands : Prop :=
  ∀ (i : Instr) (s : State),
    ((∃ f, exec i s = .fault f) ↔
      (stateCheckPasses i s ∧ (usesKey i = true → s.KeyInside) ∧ (usesSource i = true → s.SourceInside) ∧
        (usesDest i = true → s.DestInside) ∧ lengthCheckPasses i s ∧
        ((usesKey i = true ∧ s.keyBytes = none) ∨ (usesSource i = true ∧ s.sourceBytes = none)))) ∧
    (∀ f, exec i s = .fault f → f = .uninitRead) ∧
    (∀ r, exec i s ≠ .refused r)

/-! ### Commands: what they leave alone -/

/-- 10 R22, 60 R272: a command that completes writes no operand register, parameter, CMD, pending event or recorded
reading, and leaves BUSY = 0 and DONE = 1. -/
def Obligations.CommandsLeaveTheOperandRegisters : Prop :=
  ∀ (i : Instr) (s t : State), exec i s = .next t →
    t.busy = false ∧ t.done = true ∧ t.cfg = s.cfg ∧ t.cmd = s.cmd ∧ t.srcAddr = s.srcAddr ∧ t.srcLen = s.srcLen ∧
      t.dstAddr = s.dstAddr ∧ t.dstCap = s.dstCap ∧ t.keyAddr = s.keyAddr ∧ t.keyLen = s.keyLen ∧
      t.script = s.script ∧ t.readings = s.readings

/-- 20 R73: a command stores RES_LEN bytes at DST_ADDR and no other byte; CTX_INIT and CTX_UPDATE store none. -/
def Obligations.CommandsStoreOnlyTheOutput : Prop :=
  ∀ (i : Instr) (s t : State), exec i s = .next t →
    (∀ a : Nat, a < s.dstAddr.toNat ∨ s.dstAddr.toNat + t.resLen.toNat ≤ a → t.mem.read a = s.mem.read a) ∧
    (usesDest i = false → ∀ a : Nat, t.mem.read a = s.mem.read a)

/-- 20 R65, R73: the bytes a command stored have their written marks set, so the host can read its whole output. -/
def Obligations.StoredOutputIsReadable : Prop :=
  ∀ (i : Instr) (s t : State), exec i s = .next t →
    ∃ out : List Byte, t.mem.readBytes s.dstAddr.toNat t.resLen.toNat = some out

/-- 60 R273, R276: "A failing command writes no DMEM byte and changes no context slot": only STATUS and the result registers
change. -/
def Obligations.FailingCommandChangesNothingElse : Prop :=
  ∀ (i : Instr) (s t : State), exec i s = .next t → t.err ≠ 0x00 → t = s.afterError t.err t.errInfo

/-- 60 R270, R271: each command reports only the codes of the table; ERR_INFO is 0 but for INVALID_CHARACTER. -/
def Obligations.CommandsReportOnlyTheirCodes : Prop :=
  ∀ (i : Instr) (s t : State), exec i s = .next t →
    t.err ∈ reportable i ∧ (t.err ≠ 0x01 → t.errInfo = 0)

/-- 10 R48: a command changes only the slot it names. -/
def Obligations.CommandsLeaveOtherSlots : Prop :=
  ∀ (i : Instr) (s t : State) (d : Nat), exec i s = .next t → (∀ c, namedSlot i = some c → c.toNat ≠ d) →
    t.slots[d]? = s.slots[d]?

/-- 10 R48, 41 R184, 44 R262: a command observes only the slot it names: with any other contents in the other slots it
ends the same way, stores the same bytes, reports the same results and leaves the same context. -/
def Obligations.CommandsObserveOnlyTheirSlot : Prop :=
  ∀ (i : Instr) (s : State) (others : List Slot),
    (∀ c, namedSlot i = some c → others[c.toNat]? = s.slots[c.toNat]?) →
    (∀ f, exec i s = .fault f → exec i { s with slots := others } = .fault f) ∧
    (∀ t, exec i s = .next t →
      ∃ t', exec i { s with slots := others } = .next t' ∧ t' = { t with slots := t'.slots } ∧
        ∀ c, namedSlot i = some c → t'.slots[c.toNat]? = t.slots[c.toNat]?)

/-- 10 R41: the lifecycle: LSTATE changes only by the commands that name the slot, by the transitions of the rule, and
by reset. -/
def Obligations.LifecycleChangesOnlyByItsTransitions : Prop :=
  ∀ (s t : State) (d : Nat) (a b : Slot), step s = .next t → s.script.head? ≠ some .reset →
    s.slots[d]? = some a → t.slots[d]? = some b →
    b.lstate = a.lstate ∨
      (s.busy = true ∧ ∃ i, decode s.cfg.numCtx s.cmd = .ok i ∧ allowedTransition i d a.lstate b.lstate)

/-- 10 R46, 40 R152: a FINALIZED slot, its digest with it, stays as it is until CTX_INIT names it or reset. -/
def Obligations.FinalizedSlotStaysUntilReinitialised : Prop :=
  ∀ (s t : State) (d : Nat) (a : Slot), step s = .next t → s.script.head? ≠ some .reset →
    s.slots[d]? = some a → a.lstate = .finalized →
    (∀ c v, decode s.cfg.numCtx s.cmd = .ok (.ctxInit c v) → c.toNat ≠ d) →
    t.slots[d]? = some a

/-! ### The algorithms -/

/-- 40 R129, 42 R205: the padding ends a block, and is 9 to 72 bytes long: one block when T mod 64 ≤ 55, else two. -/
def Obligations.PaddingEndsABlock : Prop :=
  ∀ (v : Variant) (total : BitVec 64),
    (total.toNat + (padding v total).length) % 64 = 0 ∧ 9 ≤ (padding v total).length ∧
      (padding v total).length ≤ 72 ∧ (total.toNat % 64 ≤ 55 → (padding v total).length ≤ 64) ∧
      (56 ≤ total.toNat % 64 → 64 < (padding v total).length)

/-- 40 R143, 42 R211: split invariance over commands: CTX_INIT, any number of CTX_UPDATEs of the pieces of a message and
CTX_FINAL write `Digest_V` of the whole message, however it was split and whatever else happened between. -/
def Obligations.StreamedDigestIsTheOneShotDigest : Prop :=
  ∀ (c : BitVec 4) (v : Variant) (s0 t0 s1 : State) (first last : Slot) (pieces : List (List Byte)),
    exec (.ctxInit c v) s0 = .next t0 → t0.slot? c = some first →
    Streamed c first pieces last → s1.slot? c = some last →
    s1.DestInside → digestLen v ≤ s1.dstCap.toNat →
    ∃ t1, exec (.ctxFinal c) s1 = .next t1 ∧ t1.err = 0x00 ∧ t1.resLen = BitVec.ofNat 32 (digestLen v) ∧
      t1.mem = s1.mem.writeBytes s1.dstAddr.toNat (digest v pieces.flatten)

/-- 40 R144: in a stream, H is the initial value compressed in turn with every full block of the bytes absorbed, BUF holds
the rest, and BUFLEN and TOTAL count them. -/
def Obligations.LiveContextHoldsTheFullBlocks : Prop :=
  ∀ (c : BitVec 4) (v : Variant) (s0 t0 : State) (first last : Slot) (pieces : List (List Byte)),
    exec (.ctxInit c v) s0 = .next t0 → t0.slot? c = some first → Streamed c first pieces last →
    last.var = v ∧
    last.h = (fullBlocks pieces.flatten).foldl (compress v) (initialValue v) ∧
    last.buflen.val = pieces.flatten.length % 64 ∧
    last.buf.toList.take (pieces.flatten.length % 64)
      = pieces.flatten.drop (64 * (pieces.flatten.length / 64)) ∧
    last.total = BitVec.ofNat 64 pieces.flatten.length

/-- 43 R223: the laws of Base58: (a) decoding undoes encoding, (b) encoding undoes decoding of every alphabet string,
(c) leading zero bytes and leading `1` characters are as many. -/
def Obligations.Base58Laws : Prop :=
  (∀ b : List Byte, b58Decode (b58Encode b) = .ok b) ∧
  (∀ s : List Byte, (∀ ch ∈ s, ch ∈ alphabet) → ∃ b, b58Decode s = .ok b ∧ b58Encode b = s) ∧
  (∀ b : List Byte, leading zeroChar (b58Encode b) = leading 0 b)

/-- 43 R233: decoding undoes encoding in Base58Check, for every version byte and payload. -/
def Obligations.Base58CheckDecodeUndoesEncode : Prop :=
  ∀ (ver : Byte) (payload : List Byte), b58CheckDecode (b58CheckEncode ver payload) = .ok (ver, payload)
end

