-- ==== Sys2Proof/Laws/Base58.lean ====
section
/-! SUPPORT. The laws of the Base58 alphabet and of the digit loops: the fuel is large enough, so a loop gives the
number's digits and no others. -/

namespace Sys2Proof.Machine

/-- There are 58 characters (43 R220). -/
theorem length_alphabet : alphabet.length = 58 := by decide

/-- `index` is the inverse of ALPHABET (43 R220). -/
theorem digitValue_alphabet : ∀ v < 58, digitValue (alphabet.getD v 0) = v := by decide +kernel

/-- Every character of ALPHABET is a byte of the alphabet (43 R220). -/
theorem inAlphabet_alphabet : ∀ v < 58, inAlphabet (alphabet.getD v 0) = true := by decide +kernel

/-- ALPHABET is the inverse of `index` on the bytes of the alphabet (43 R220). -/
theorem alphabet_digitValue (ch : Byte) (h : inAlphabet ch = true) :
    digitValue ch < 58 ∧ alphabet.getD (digitValue ch) 0 = ch := by
  have hm : ch ∈ alphabet := by simpa [inAlphabet] using h
  have hlt : digitValue ch < alphabet.length := List.idxOf_lt_length_iff.2 hm
  refine ⟨length_alphabet ▸ hlt, ?_⟩
  rw [List.getD_eq_getElem?_getD, List.getElem?_eq_getElem hlt]
  exact List.getElem_idxOf hlt

/-- Only `1` has the digit value 0 (43 R220). -/
theorem digitValue_eq_zero_iff (ch : Byte) (h : inAlphabet ch = true) : digitValue ch = 0 ↔ ch = zeroChar := by
  constructor
  · intro h0
    have := (alphabet_digitValue ch h).2
    rw [h0] at this
    exact this.symm
  · rintro rfl; decide

/-- The digit loop only puts digits in front. -/
theorem base58Digits_append (fuel n : Nat) (d : List Byte) :
    base58Digits fuel n d = base58Digits fuel n [] ++ d := by
  induction fuel generalizing n d with
  | zero => rfl
  | succ fuel ih =>
    simp only [base58Digits]
    split
    · rfl
    · rw [ih, ih _ [_]]; simp

/-- The byte loop only puts bytes in front. -/
theorem bigEndianBytes_append (fuel n : Nat) (d : List Byte) :
    bigEndianBytes fuel n d = bigEndianBytes fuel n [] ++ d := by
  induction fuel generalizing n d with
  | zero => rfl
  | succ fuel ih =>
    simp only [bigEndianBytes]
    split
    · rfl
    · rw [ih, ih _ [_]]; simp

/-- With enough fuel the digits write the number back, are alphabet bytes, and do not start with `1` (43 R221). -/
theorem base58Digits_spec (fuel n : Nat) (h : n < 58 ^ fuel) :
    base58Nat (base58Digits fuel n []) = n ∧ (∀ ch ∈ base58Digits fuel n [], inAlphabet ch = true) ∧
      (base58Digits fuel n []).head? ≠ some zeroChar := by
  induction fuel generalizing n with
  | zero =>
    have : n = 0 := by simpa using h
    subst this; exact ⟨rfl, by simp [base58Digits], by simp [base58Digits]⟩
  | succ fuel ih =>
    simp only [base58Digits]
    split
    · rename_i h0; subst h0; exact ⟨rfl, by simp, by simp⟩
    · rename_i h0
      rw [base58Digits_append]
      obtain ⟨h1, h2, h3⟩ := ih (n / 58) (by rw [Nat.div_lt_iff_lt_mul (by decide)]; rwa [pow_succ] at h)
      have hm : n % 58 < 58 := Nat.mod_lt _ (by decide)
      refine ⟨?_, ?_, ?_⟩
      · rw [base58Nat] at h1 ⊢
        rw [List.foldl_append, h1]
        simp only [List.foldl_cons, List.foldl_nil, digitValue_alphabet _ hm]
        omega
      · intro ch hch
        rcases List.mem_append.1 hch with hch | hch
        · exact h2 ch hch
        · rw [List.mem_singleton.1 hch]; exact inAlphabet_alphabet _ hm
      · rw [List.head?_append]
        cases hd : (base58Digits fuel (n / 58) []).head? with
        | some x => rw [hd] at h3; simpa using h3
        | none =>
          have hnil := List.head?_eq_none_iff.1 hd
          rw [hnil] at h1
          have hz : n / 58 = 0 := h1.symm
          simp only [List.head?_cons, Option.none_or, ne_eq, Option.some.injEq]
          intro he
          have := digitValue_alphabet _ hm
          rw [he] at this
          have hd0 : digitValue zeroChar = 0 := by decide
          omega

/-- With enough fuel the bytes write the number back and do not start with 0x00 (43 R222). -/
theorem bigEndianBytes_spec (fuel n : Nat) (h : n < 256 ^ fuel) :
    beNat (bigEndianBytes fuel n []) = n ∧ (bigEndianBytes fuel n []).head? ≠ some 0 := by
  induction fuel generalizing n with
  | zero =>
    have : n = 0 := by simpa using h
    subst this; exact ⟨rfl, by simp [bigEndianBytes]⟩
  | succ fuel ih =>
    simp only [bigEndianBytes]
    split
    · rename_i h0; subst h0; exact ⟨rfl, by simp⟩
    · rename_i h0
      rw [bigEndianBytes_append]
      obtain ⟨h1, h3⟩ := ih (n / 256) (by rw [Nat.div_lt_iff_lt_mul (by decide)]; rwa [pow_succ] at h)
      have hm : n % 256 < 256 := Nat.mod_lt _ (by decide)
      refine ⟨?_, ?_⟩
      · rw [beNat] at h1 ⊢
        rw [List.foldl_append, h1]
        simp only [List.foldl_cons, List.foldl_nil, BitVec.toNat_ofNat]
        omega
      · rw [List.head?_append]
        cases hd : (bigEndianBytes fuel (n / 256) []).head? with
        | some x => rw [hd] at h3; simpa using h3
        | none =>
          have hnil := List.head?_eq_none_iff.1 hd
          rw [hnil] at h1
          have hz : n / 256 = 0 := h1.symm
          simp only [List.head?_cons, Option.none_or, ne_eq, Option.some.injEq]
          intro he
          have := congrArg BitVec.toNat he
          have h00 : BitVec.toNat (0 : Byte) = 0 := rfl
          simp only [BitVec.toNat_ofNat] at this
          omega

/-- A byte string of n bytes writes a number below 256^n (43 R221). -/
theorem beNat_lt (b : List Byte) : beNat b < 256 ^ b.length := by
  induction b using List.reverseRecOn with
  | nil => decide
  | append_singleton b x ih =>
    have hx : x.toNat < 256 := x.isLt
    rw [beNat] at ih ⊢
    simp only [List.foldl_append, List.foldl_cons, List.foldl_nil, List.length_append, List.length_singleton, pow_succ]
    omega

/-- A string of n alphabet bytes writes a number below 58^n (43 R222). -/
theorem base58Nat_lt (s : List Byte) (h : ∀ ch ∈ s, inAlphabet ch = true) : base58Nat s < 58 ^ s.length := by
  induction s using List.reverseRecOn with
  | nil => decide
  | append_singleton s x ih =>
    have hx := (alphabet_digitValue x (h x (by simp))).1
    have ih := ih fun ch hch => h ch (by simp [hch])
    rw [base58Nat] at ih ⊢
    simp only [List.foldl_append, List.foldl_cons, List.foldl_nil, List.length_append, List.length_singleton, pow_succ]
    omega

/-- The fuel of `b58Encode` is large enough: 256 < 58². -/
theorem beNat_lt_fuel (b : List Byte) : beNat b < 58 ^ (2 * b.length) :=
  lt_of_lt_of_le (beNat_lt b) (by rw [pow_mul]; exact Nat.pow_le_pow_left (by decide) _)

/-- The fuel of `b58Decode` is large enough: 58 ≤ 256. -/
theorem base58Nat_lt_fuel (s : List Byte) (h : ∀ ch ∈ s, inAlphabet ch = true) : base58Nat s < 256 ^ s.length :=
  lt_of_lt_of_le (base58Nat_lt s h) (Nat.pow_le_pow_left (by decide) _)

/-- The scan finds nothing exactly when every byte is in the alphabet (43 R222). -/
theorem firstInvalid_eq_none_iff (i : Nat) (s : List Byte) :
    firstInvalid i s = none ↔ ∀ ch ∈ s, inAlphabet ch = true := by
  induction s generalizing i with
  | nil => simp [firstInvalid]
  | cons ch s ih =>
    simp only [firstInvalid]
    split
    · rename_i h; simp [ih, h]
    · rename_i h; simp [h]

end Sys2Proof.Machine
end

