-- ==== Sys2Proof/Laws/PerInstr.lean ====
section
/-! SUPPORT. Statements made for each command as syntax. Family EncodedFields: in a command's word, each field of spec
30 R91 reads back as the command's field, and the reserved bits 15 and 31:24 are 0 (30 R96). -/

namespace Sys2Proof

/-- The fields of a word that is put together from fields (30 R91, R97). -/
theorem fields_of_word (ver : Byte) (net : BitVec 1) (var : BitVec 2) (c : BitVec 4) (op : Byte) (w : Word)
    (h : w = 0#8 ++ ver ++ 0#1 ++ net ++ var ++ c ++ op) :
    opField w = op ∧ ctxField w = c ∧ varField w = var ∧ netField w = net ∧ verField w = ver ∧
      w.extractLsb' 15 1 = 0 ∧ w.extractLsb' 24 8 = 0 := by
  subst h
  refine ⟨?_, ?_, ?_, ?_, ?_, ?_, ?_⟩ <;>
  · ext i hi
    simp only [opField, ctxField, varField, netField, verField, BitVec.getElem_extractLsb', BitVec.getLsbD_append]
    interval_cases i <;> simp

namespace Laws.EncodedFields

/-- In the word of a command each field reads back as the command's, and the reserved bits are 0 (30 R91, R96, R99). -/
def Statement (i : Instr) : Prop :=
  opField (encode i) = opcode i ∧ ctxField (encode i) = ctxOf i ∧ varField (encode i) = varOf i ∧
    netField (encode i) = netOf i ∧ verField (encode i) = verOf i ∧
    (encode i).extractLsb' 15 1 = 0 ∧ (encode i).extractLsb' 24 8 = 0

theorem ctxInit (c : BitVec 4) (v : Variant) : Statement (.ctxInit c v) := fields_of_word _ _ _ _ _ _ rfl
theorem ctxUpdate (c : BitVec 4) : Statement (.ctxUpdate c) := fields_of_word _ _ _ _ _ _ rfl
theorem ctxFinal (c : BitVec 4) : Statement (.ctxFinal c) := fields_of_word _ _ _ _ _ _ rfl
theorem sha256 : Statement .sha256 := fields_of_word _ _ _ _ _ _ rfl
theorem sha224 : Statement .sha224 := fields_of_word _ _ _ _ _ _ rfl
theorem rmd160 : Statement .rmd160 := fields_of_word _ _ _ _ _ _ rfl
theorem hmac (v : MacVariant) : Statement (.hmac v) := fields_of_word _ _ _ _ _ _ rfl
theorem b58Enc : Statement .b58Enc := fields_of_word _ _ _ _ _ _ rfl
theorem b58Dec : Statement .b58Dec := fields_of_word _ _ _ _ _ _ rfl
theorem b58cEnc (ver : Byte) : Statement (.b58cEnc ver) := fields_of_word _ _ _ _ _ _ rfl
theorem b58cDec : Statement .b58cDec := fields_of_word _ _ _ _ _ _ rfl
theorem deriveP2pkh (net : Net) : Statement (.deriveP2pkh net) := fields_of_word _ _ _ _ _ _ rfl
theorem wrapP2sh : Statement .wrapP2sh := fields_of_word _ _ _ _ _ _ rfl

end Laws.EncodedFields

end Sys2Proof
end

