-- ==== Sys2Proof/Laws/Decode.lean ====
section
/-! SUPPORT. A command word as its fields: any word is its seven fields put together, and a mask test is a test of each
field. -/

namespace Sys2Proof

/-- A word is its fields, most significant first (30 R91). -/
theorem word_eq_fields (w : Word) :
    w = w.extractLsb' 24 8 ++ verField w ++ w.extractLsb' 15 1 ++ netField w ++ varField w ++ ctxField w ++ opField w := by
  apply BitVec.eq_of_getLsbD_eq
  intro i hi
  simp only [opField, ctxField, varField, netField, verField, BitVec.getLsbD_append, BitVec.getLsbD_extractLsb']
  interval_cases i <;> simp

/-- Two words put together from fields are equal exactly when their fields are. -/
theorem fields_inj (h h' ver ver' : Byte) (r r' net net' : BitVec 1) (var var' : BitVec 2) (c c' : BitVec 4)
    (op op' : Byte) :
    (h ++ ver ++ r ++ net ++ var ++ c ++ op : Word) = h' ++ ver' ++ r' ++ net' ++ var' ++ c' ++ op' ↔
      h = h' ∧ ver = ver' ∧ r = r' ∧ net = net' ∧ var = var' ∧ c = c' ∧ op = op' := by
  constructor
  · intro he
    have hb : ∀ i : Nat, (h ++ ver ++ r ++ net ++ var ++ c ++ op : Word).getLsbD i
        = (h' ++ ver' ++ r' ++ net' ++ var' ++ c' ++ op' : Word).getLsbD i := fun i => by rw [he]
    simp only [BitVec.getLsbD_append] at hb
    refine ⟨?_, ?_, ?_, ?_, ?_, ?_, ?_⟩ <;> apply BitVec.eq_of_getLsbD_eq <;> intro i hi
    · have := hb (i + 24); interval_cases i <;> simpa using this
    · have := hb (i + 16); interval_cases i <;> simpa using this
    · have := hb (i + 15); interval_cases i; simpa using this
    · have := hb (i + 14); interval_cases i; simpa using this
    · have := hb (i + 12); interval_cases i <;> simpa using this
    · have := hb (i + 8); interval_cases i <;> simpa using this
    · have := hb i; interval_cases i <;> simpa using this
  · rintro ⟨rfl, rfl, rfl, rfl, rfl, rfl, rfl⟩; rfl

/-- A mask acts on each field. -/
theorem fields_and (h h' ver ver' : Byte) (r r' net net' : BitVec 1) (var var' : BitVec 2) (c c' : BitVec 4)
    (op op' : Byte) :
    (h ++ ver ++ r ++ net ++ var ++ c ++ op : Word) &&& (h' ++ ver' ++ r' ++ net' ++ var' ++ c' ++ op') =
      (h &&& h') ++ (ver &&& ver') ++ (r &&& r') ++ (net &&& net') ++ (var &&& var') ++ (c &&& c') ++ (op &&& op') := by
  apply BitVec.eq_of_getLsbD_eq
  intro i hi
  simp only [BitVec.getLsbD_and, BitVec.getLsbD_append]
  interval_cases i <;> simp

/-- A row selects a word exactly when each field of the word, masked by the row's, is the row's. -/
theorem Row.selects_iff_fields (r : Row) (w : Word) :
    r.selects w = true ↔
      w.extractLsb' 24 8 &&& r.mask.extractLsb' 24 8 = r.pattern.extractLsb' 24 8 ∧
      verField w &&& verField r.mask = verField r.pattern ∧
      w.extractLsb' 15 1 &&& r.mask.extractLsb' 15 1 = r.pattern.extractLsb' 15 1 ∧
      netField w &&& netField r.mask = netField r.pattern ∧
      varField w &&& varField r.mask = varField r.pattern ∧
      ctxField w &&& ctxField r.mask = ctxField r.pattern ∧
      opField w &&& opField r.mask = opField r.pattern := by
  have hw := word_eq_fields w
  have hm := word_eq_fields r.mask
  have hp := word_eq_fields r.pattern
  rw [Row.selects, beq_iff_eq]
  conv_lhs => rw [hw, hm, hp]
  rw [fields_and, fields_inj]

end Sys2Proof
end

