-- ==== Sys2Proof/Laws/Digest.lean ====
section
/-! SUPPORT. The laws of the streaming machinery: absorbing is byte by byte, so it splits anywhere, keeps VAR and TOTAL,
and counts the bytes in the buffer; the lengths of paddings and digests. -/

namespace Sys2Proof.Machine

/-! ### Lengths -/

@[simp] theorem length_bew (w : Word) : (bew w).length = 4 := rfl
@[simp] theorem length_lew (w : Word) : (lew w).length = 4 := rfl
@[simp] theorem length_be64 (n : BitVec 64) : (be64 n).length = 8 := rfl
@[simp] theorem length_le64 (n : BitVec 64) : (le64 n).length = 8 := rfl

/-- A digest has DLEN bytes (40 R130, 42 R206). -/
@[simp] theorem length_digestOut (v : Variant) (h : Chain) : (digestOut v h).length = digestLen v := by
  cases v <;> rfl

theorem digestLen_le (v : Variant) : digestLen v ≤ 32 := by cases v <;> decide

/-- The padding is 0x80, the zeros and eight bytes of length (40 R129, 42 R205). -/
theorem length_padding (v : Variant) (total : BitVec 64) : (padding v total).length = 9 + padZeros total := by
  cases v <;> simp [padding, padSha, padRmd] <;> omega

/-! ### Compression -/

theorem rmdCombine_high (h : Chain) (p q : RmdLine) :
    (rmdCombine h p q).h5 = h.h5 ∧ (rmdCombine h p q).h6 = h.h6 ∧ (rmdCombine h p q).h7 = h.h7 := ⟨rfl, rfl, rfl⟩

/-- A RIPEMD-160 block leaves H[5..7] alone (10 R43, 42 R201). -/
theorem compress_rmd160_high (h : Chain) (block : List Byte) :
    (compress .rmd160 h block).h5 = h.h5 ∧ (compress .rmd160 h block).h6 = h.h6 ∧
      (compress .rmd160 h block).h7 = h.h7 := by
  unfold compress compressRmd
  exact rmdCombine_high _ _ _

/-! ### Absorbing -/

@[simp] theorem Slot.absorb_nil (s : Slot) : s.absorb [] = s := rfl

@[simp] theorem Slot.absorb_cons (s : Slot) (b : Byte) (m : List Byte) :
    s.absorb (b :: m) = (s.absorbByte b).absorb m := rfl

/-- Absorbing a concatenation is absorbing its parts in turn (40 R140, R143). -/
theorem Slot.absorb_append (s : Slot) (m n : List Byte) : s.absorb (m ++ n) = (s.absorb m).absorb n :=
  List.foldl_append

@[simp] theorem Slot.absorbByte_var (s : Slot) (b : Byte) : (s.absorbByte b).var = s.var := by
  unfold Slot.absorbByte; dsimp only; split <;> rfl

@[simp] theorem Slot.absorbByte_total (s : Slot) (b : Byte) : (s.absorbByte b).total = s.total := by
  unfold Slot.absorbByte; dsimp only; split <;> rfl

@[simp] theorem Slot.absorbByte_lstate (s : Slot) (b : Byte) : (s.absorbByte b).lstate = s.lstate := by
  unfold Slot.absorbByte; dsimp only; split <;> rfl

@[simp] theorem Slot.absorbByte_digest (s : Slot) (b : Byte) : (s.absorbByte b).digest = s.digest := by
  unfold Slot.absorbByte; dsimp only; split <;> rfl

/-- One byte more in the buffer, modulo the block size. -/
theorem Slot.absorbByte_buflen (s : Slot) (b : Byte) :
    (s.absorbByte b).buflen.val = (s.buflen.val + 1) % 64 := by
  unfold Slot.absorbByte; dsimp only
  split
  · rename_i h
    have h63 : s.buflen.val = 63 := congrArg Fin.val h
    change 0 = (s.buflen.val + 1) % 64
    omega
  · rfl

@[simp] theorem Slot.absorb_var (s : Slot) (m : List Byte) : (s.absorb m).var = s.var := by
  induction m generalizing s with
  | nil => rfl
  | cons b m ih => simp [ih]

/-- absorb does not change TOTAL (40 R140). -/
@[simp] theorem Slot.absorb_total (s : Slot) (m : List Byte) : (s.absorb m).total = s.total := by
  induction m generalizing s with
  | nil => rfl
  | cons b m ih => simp [ih]

@[simp] theorem Slot.absorb_lstate (s : Slot) (m : List Byte) : (s.absorb m).lstate = s.lstate := by
  induction m generalizing s with
  | nil => rfl
  | cons b m ih => simp [ih]

@[simp] theorem Slot.absorb_digest (s : Slot) (m : List Byte) : (s.absorb m).digest = s.digest := by
  induction m generalizing s with
  | nil => rfl
  | cons b m ih => simp [ih]

/-- The buffer counts the bytes absorbed, modulo the block size. -/
theorem Slot.absorb_buflen (s : Slot) (m : List Byte) :
    (s.absorb m).buflen.val = (s.buflen.val + m.length) % 64 := by
  induction m generalizing s with
  | nil => simp [Nat.mod_eq_of_lt s.buflen.isLt]
  | cons b m ih => rw [Slot.absorb_cons, ih, Slot.absorbByte_buflen, List.length_cons]; omega

/-- absorb reads neither TOTAL nor LSTATE nor DIGEST: changing them before is changing them after. -/
theorem Slot.absorb_with (s : Slot) (m : List Byte) (l : LState) (t : BitVec 64) (d : Vector Byte 32) :
    ({ s with lstate := l, total := t, digest := d }).absorb m =
      { s.absorb m with lstate := l, total := t, digest := d } := by
  induction m generalizing s with
  | nil => rfl
  | cons b m ih =>
    rw [Slot.absorb_cons, Slot.absorb_cons, ← ih]
    congr 1
    unfold Slot.absorbByte; dsimp only
    split <;> rfl

/-! ### The latched digest -/

/-- The first DLEN bytes of what finalization latches are the digest (40 R142). -/
theorem take_latch (d : List Byte) (h : d.length ≤ 32) : (latch d).toList.take d.length = d := by
  apply List.ext_getElem
  · simp [h]
  · intro i h1 h2
    simp [latch, List.getD_eq_getElem?_getD, h2]

/-- The bytes after it are zeros (10 R46, 40 R142). -/
theorem drop_latch (d : List Byte) : (latch d).toList.drop d.length = List.replicate (32 - d.length) 0 := by
  apply List.ext_getElem
  · simp
  · intro i h1 h2
    simp [latch, List.getD_eq_getElem?_getD]

/-- Finalization latches the variant's output of the padded context. -/
theorem Slot.digestBytes_finalize (s : Slot) :
    s.finalize.digestBytes = digestOut s.var (s.absorb (padding s.var s.total)).h := by
  have h := take_latch (digestOut s.var (s.absorb (padding s.var s.total)).h)
    (by simpa using digestLen_le s.var)
  simpa [Slot.digestBytes, Slot.finalize] using h

/-- A digest has DLEN bytes (40 R141). -/
@[simp] theorem length_digest (v : Variant) (m : List Byte) : (digest v m).length = digestLen v := by
  simp only [digest, Slot.digestBytes_finalize, length_digestOut]
  simp [Slot.fresh]

end Sys2Proof.Machine
end

