-- ==== Sys2Proof/Laws/State.lean ====
section
/-! SUPPORT. What each update of the state leaves in each field: one lemma per field per update, true by rfl, so that no
later proof unfolds a record update. -/

namespace Sys2Proof.Machine

variable (s : State)

/-! ### State.complete -/

@[simp] theorem State.complete_cfg (code : Status) (info n : Word) (ver : Byte) : (s.complete code info n ver).cfg = s.cfg := rfl
@[simp] theorem State.complete_cmd (code : Status) (info n : Word) (ver : Byte) : (s.complete code info n ver).cmd = s.cmd := rfl
@[simp] theorem State.complete_busy (code : Status) (info n : Word) (ver : Byte) : (s.complete code info n ver).busy = false := rfl
@[simp] theorem State.complete_done (code : Status) (info n : Word) (ver : Byte) : (s.complete code info n ver).done = true := rfl
@[simp] theorem State.complete_err (code : Status) (info n : Word) (ver : Byte) : (s.complete code info n ver).err = statusCode code := rfl
@[simp] theorem State.complete_srcAddr (code : Status) (info n : Word) (ver : Byte) : (s.complete code info n ver).srcAddr = s.srcAddr := rfl
@[simp] theorem State.complete_srcLen (code : Status) (info n : Word) (ver : Byte) : (s.complete code info n ver).srcLen = s.srcLen := rfl
@[simp] theorem State.complete_dstAddr (code : Status) (info n : Word) (ver : Byte) : (s.complete code info n ver).dstAddr = s.dstAddr := rfl
@[simp] theorem State.complete_dstCap (code : Status) (info n : Word) (ver : Byte) : (s.complete code info n ver).dstCap = s.dstCap := rfl
@[simp] theorem State.complete_keyAddr (code : Status) (info n : Word) (ver : Byte) : (s.complete code info n ver).keyAddr = s.keyAddr := rfl
@[simp] theorem State.complete_keyLen (code : Status) (info n : Word) (ver : Byte) : (s.complete code info n ver).keyLen = s.keyLen := rfl
@[simp] theorem State.complete_resLen (code : Status) (info n : Word) (ver : Byte) : (s.complete code info n ver).resLen = n := rfl
@[simp] theorem State.complete_resVer (code : Status) (info n : Word) (ver : Byte) : (s.complete code info n ver).resVer = ver := rfl
@[simp] theorem State.complete_errInfo (code : Status) (info n : Word) (ver : Byte) : (s.complete code info n ver).errInfo = info := rfl
@[simp] theorem State.complete_slots (code : Status) (info n : Word) (ver : Byte) : (s.complete code info n ver).slots = s.slots := rfl
@[simp] theorem State.complete_mem (code : Status) (info n : Word) (ver : Byte) : (s.complete code info n ver).mem = s.mem := rfl
@[simp] theorem State.complete_script (code : Status) (info n : Word) (ver : Byte) : (s.complete code info n ver).script = s.script := rfl
@[simp] theorem State.complete_readings (code : Status) (info n : Word) (ver : Byte) : (s.complete code info n ver).readings = s.readings := rfl

/-! ### State.fail -/

@[simp] theorem State.fail_cfg (code : Status) (info : Word) : (s.fail code info).cfg = s.cfg := rfl
@[simp] theorem State.fail_cmd (code : Status) (info : Word) : (s.fail code info).cmd = s.cmd := rfl
@[simp] theorem State.fail_busy (code : Status) (info : Word) : (s.fail code info).busy = false := rfl
@[simp] theorem State.fail_done (code : Status) (info : Word) : (s.fail code info).done = true := rfl
@[simp] theorem State.fail_err (code : Status) (info : Word) : (s.fail code info).err = statusCode code := rfl
@[simp] theorem State.fail_srcAddr (code : Status) (info : Word) : (s.fail code info).srcAddr = s.srcAddr := rfl
@[simp] theorem State.fail_srcLen (code : Status) (info : Word) : (s.fail code info).srcLen = s.srcLen := rfl
@[simp] theorem State.fail_dstAddr (code : Status) (info : Word) : (s.fail code info).dstAddr = s.dstAddr := rfl
@[simp] theorem State.fail_dstCap (code : Status) (info : Word) : (s.fail code info).dstCap = s.dstCap := rfl
@[simp] theorem State.fail_keyAddr (code : Status) (info : Word) : (s.fail code info).keyAddr = s.keyAddr := rfl
@[simp] theorem State.fail_keyLen (code : Status) (info : Word) : (s.fail code info).keyLen = s.keyLen := rfl
@[simp] theorem State.fail_resLen (code : Status) (info : Word) : (s.fail code info).resLen = 0 := rfl
@[simp] theorem State.fail_resVer (code : Status) (info : Word) : (s.fail code info).resVer = 0 := rfl
@[simp] theorem State.fail_errInfo (code : Status) (info : Word) : (s.fail code info).errInfo = info := rfl
@[simp] theorem State.fail_slots (code : Status) (info : Word) : (s.fail code info).slots = s.slots := rfl
@[simp] theorem State.fail_mem (code : Status) (info : Word) : (s.fail code info).mem = s.mem := rfl
@[simp] theorem State.fail_script (code : Status) (info : Word) : (s.fail code info).script = s.script := rfl
@[simp] theorem State.fail_readings (code : Status) (info : Word) : (s.fail code info).readings = s.readings := rfl

/-! ### State.illegal -/

@[simp] theorem State.illegal_cfg : (s.illegal).cfg = s.cfg := rfl
@[simp] theorem State.illegal_cmd : (s.illegal).cmd = s.cmd := rfl
@[simp] theorem State.illegal_busy : (s.illegal).busy = false := rfl
@[simp] theorem State.illegal_done : (s.illegal).done = true := rfl
@[simp] theorem State.illegal_err : (s.illegal).err = statusCode .illegalCommand := rfl
@[simp] theorem State.illegal_srcAddr : (s.illegal).srcAddr = s.srcAddr := rfl
@[simp] theorem State.illegal_srcLen : (s.illegal).srcLen = s.srcLen := rfl
@[simp] theorem State.illegal_dstAddr : (s.illegal).dstAddr = s.dstAddr := rfl
@[simp] theorem State.illegal_dstCap : (s.illegal).dstCap = s.dstCap := rfl
@[simp] theorem State.illegal_keyAddr : (s.illegal).keyAddr = s.keyAddr := rfl
@[simp] theorem State.illegal_keyLen : (s.illegal).keyLen = s.keyLen := rfl
@[simp] theorem State.illegal_resLen : (s.illegal).resLen = 0 := rfl
@[simp] theorem State.illegal_resVer : (s.illegal).resVer = 0 := rfl
@[simp] theorem State.illegal_errInfo : (s.illegal).errInfo = 0 := rfl
@[simp] theorem State.illegal_slots : (s.illegal).slots = s.slots := rfl
@[simp] theorem State.illegal_mem : (s.illegal).mem = s.mem := rfl
@[simp] theorem State.illegal_script : (s.illegal).script = s.script := rfl
@[simp] theorem State.illegal_readings : (s.illegal).readings = s.readings := rfl

/-! ### State.issue -/

@[simp] theorem State.issue_cfg (w : Word) : (s.issue w).cfg = s.cfg := rfl
@[simp] theorem State.issue_cmd (w : Word) : (s.issue w).cmd = w := rfl
@[simp] theorem State.issue_busy (w : Word) : (s.issue w).busy = true := rfl
@[simp] theorem State.issue_done (w : Word) : (s.issue w).done = false := rfl
@[simp] theorem State.issue_err (w : Word) : (s.issue w).err = 0 := rfl
@[simp] theorem State.issue_srcAddr (w : Word) : (s.issue w).srcAddr = s.srcAddr := rfl
@[simp] theorem State.issue_srcLen (w : Word) : (s.issue w).srcLen = s.srcLen := rfl
@[simp] theorem State.issue_dstAddr (w : Word) : (s.issue w).dstAddr = s.dstAddr := rfl
@[simp] theorem State.issue_dstCap (w : Word) : (s.issue w).dstCap = s.dstCap := rfl
@[simp] theorem State.issue_keyAddr (w : Word) : (s.issue w).keyAddr = s.keyAddr := rfl
@[simp] theorem State.issue_keyLen (w : Word) : (s.issue w).keyLen = s.keyLen := rfl
@[simp] theorem State.issue_resLen (w : Word) : (s.issue w).resLen = s.resLen := rfl
@[simp] theorem State.issue_resVer (w : Word) : (s.issue w).resVer = s.resVer := rfl
@[simp] theorem State.issue_errInfo (w : Word) : (s.issue w).errInfo = s.errInfo := rfl
@[simp] theorem State.issue_slots (w : Word) : (s.issue w).slots = s.slots := rfl
@[simp] theorem State.issue_mem (w : Word) : (s.issue w).mem = s.mem := rfl
@[simp] theorem State.issue_script (w : Word) : (s.issue w).script = s.script := rfl
@[simp] theorem State.issue_readings (w : Word) : (s.issue w).readings = s.readings := rfl

/-! ### State.setSlot -/

@[simp] theorem State.setSlot_cfg (c : BitVec 4) (sl : Slot) : (s.setSlot c sl).cfg = s.cfg := rfl
@[simp] theorem State.setSlot_cmd (c : BitVec 4) (sl : Slot) : (s.setSlot c sl).cmd = s.cmd := rfl
@[simp] theorem State.setSlot_busy (c : BitVec 4) (sl : Slot) : (s.setSlot c sl).busy = s.busy := rfl
@[simp] theorem State.setSlot_done (c : BitVec 4) (sl : Slot) : (s.setSlot c sl).done = s.done := rfl
@[simp] theorem State.setSlot_err (c : BitVec 4) (sl : Slot) : (s.setSlot c sl).err = s.err := rfl
@[simp] theorem State.setSlot_srcAddr (c : BitVec 4) (sl : Slot) : (s.setSlot c sl).srcAddr = s.srcAddr := rfl
@[simp] theorem State.setSlot_srcLen (c : BitVec 4) (sl : Slot) : (s.setSlot c sl).srcLen = s.srcLen := rfl
@[simp] theorem State.setSlot_dstAddr (c : BitVec 4) (sl : Slot) : (s.setSlot c sl).dstAddr = s.dstAddr := rfl
@[simp] theorem State.setSlot_dstCap (c : BitVec 4) (sl : Slot) : (s.setSlot c sl).dstCap = s.dstCap := rfl
@[simp] theorem State.setSlot_keyAddr (c : BitVec 4) (sl : Slot) : (s.setSlot c sl).keyAddr = s.keyAddr := rfl
@[simp] theorem State.setSlot_keyLen (c : BitVec 4) (sl : Slot) : (s.setSlot c sl).keyLen = s.keyLen := rfl
@[simp] theorem State.setSlot_resLen (c : BitVec 4) (sl : Slot) : (s.setSlot c sl).resLen = s.resLen := rfl
@[simp] theorem State.setSlot_resVer (c : BitVec 4) (sl : Slot) : (s.setSlot c sl).resVer = s.resVer := rfl
@[simp] theorem State.setSlot_errInfo (c : BitVec 4) (sl : Slot) : (s.setSlot c sl).errInfo = s.errInfo := rfl
@[simp] theorem State.setSlot_slots (c : BitVec 4) (sl : Slot) : (s.setSlot c sl).slots = s.slots.set c.toNat sl := rfl
@[simp] theorem State.setSlot_mem (c : BitVec 4) (sl : Slot) : (s.setSlot c sl).mem = s.mem := rfl
@[simp] theorem State.setSlot_script (c : BitVec 4) (sl : Slot) : (s.setSlot c sl).script = s.script := rfl
@[simp] theorem State.setSlot_readings (c : BitVec 4) (sl : Slot) : (s.setSlot c sl).readings = s.readings := rfl

/-! ### State.store -/

@[simp] theorem State.store_cfg (out : List Byte) : (s.store out).cfg = s.cfg := rfl
@[simp] theorem State.store_cmd (out : List Byte) : (s.store out).cmd = s.cmd := rfl
@[simp] theorem State.store_busy (out : List Byte) : (s.store out).busy = s.busy := rfl
@[simp] theorem State.store_done (out : List Byte) : (s.store out).done = s.done := rfl
@[simp] theorem State.store_err (out : List Byte) : (s.store out).err = s.err := rfl
@[simp] theorem State.store_srcAddr (out : List Byte) : (s.store out).srcAddr = s.srcAddr := rfl
@[simp] theorem State.store_srcLen (out : List Byte) : (s.store out).srcLen = s.srcLen := rfl
@[simp] theorem State.store_dstAddr (out : List Byte) : (s.store out).dstAddr = s.dstAddr := rfl
@[simp] theorem State.store_dstCap (out : List Byte) : (s.store out).dstCap = s.dstCap := rfl
@[simp] theorem State.store_keyAddr (out : List Byte) : (s.store out).keyAddr = s.keyAddr := rfl
@[simp] theorem State.store_keyLen (out : List Byte) : (s.store out).keyLen = s.keyLen := rfl
@[simp] theorem State.store_resLen (out : List Byte) : (s.store out).resLen = s.resLen := rfl
@[simp] theorem State.store_resVer (out : List Byte) : (s.store out).resVer = s.resVer := rfl
@[simp] theorem State.store_errInfo (out : List Byte) : (s.store out).errInfo = s.errInfo := rfl
@[simp] theorem State.store_slots (out : List Byte) : (s.store out).slots = s.slots := rfl
@[simp] theorem State.store_mem (out : List Byte) : (s.store out).mem = s.mem.writeBytes s.dstAddr.toNat out := rfl
@[simp] theorem State.store_script (out : List Byte) : (s.store out).script = s.script := rfl
@[simp] theorem State.store_readings (out : List Byte) : (s.store out).readings = s.readings := rfl

/-! ### State.record -/

@[simp] theorem State.record_cfg (x : Reading) : (s.record x).cfg = s.cfg := rfl
@[simp] theorem State.record_cmd (x : Reading) : (s.record x).cmd = s.cmd := rfl
@[simp] theorem State.record_busy (x : Reading) : (s.record x).busy = s.busy := rfl
@[simp] theorem State.record_done (x : Reading) : (s.record x).done = s.done := rfl
@[simp] theorem State.record_err (x : Reading) : (s.record x).err = s.err := rfl
@[simp] theorem State.record_srcAddr (x : Reading) : (s.record x).srcAddr = s.srcAddr := rfl
@[simp] theorem State.record_srcLen (x : Reading) : (s.record x).srcLen = s.srcLen := rfl
@[simp] theorem State.record_dstAddr (x : Reading) : (s.record x).dstAddr = s.dstAddr := rfl
@[simp] theorem State.record_dstCap (x : Reading) : (s.record x).dstCap = s.dstCap := rfl
@[simp] theorem State.record_keyAddr (x : Reading) : (s.record x).keyAddr = s.keyAddr := rfl
@[simp] theorem State.record_keyLen (x : Reading) : (s.record x).keyLen = s.keyLen := rfl
@[simp] theorem State.record_resLen (x : Reading) : (s.record x).resLen = s.resLen := rfl
@[simp] theorem State.record_resVer (x : Reading) : (s.record x).resVer = s.resVer := rfl
@[simp] theorem State.record_errInfo (x : Reading) : (s.record x).errInfo = s.errInfo := rfl
@[simp] theorem State.record_slots (x : Reading) : (s.record x).slots = s.slots := rfl
@[simp] theorem State.record_mem (x : Reading) : (s.record x).mem = s.mem := rfl
@[simp] theorem State.record_script (x : Reading) : (s.record x).script = s.script := rfl
@[simp] theorem State.record_readings (x : Reading) : (s.record x).readings = s.readings ++ [x] := rfl

/-! ### State.afterReset -/

@[simp] theorem State.afterReset_cfg : (s.afterReset).cfg = s.cfg := rfl
@[simp] theorem State.afterReset_cmd : (s.afterReset).cmd = 0 := rfl
@[simp] theorem State.afterReset_busy : (s.afterReset).busy = false := rfl
@[simp] theorem State.afterReset_done : (s.afterReset).done = false := rfl
@[simp] theorem State.afterReset_err : (s.afterReset).err = 0 := rfl
@[simp] theorem State.afterReset_srcAddr : (s.afterReset).srcAddr = 0 := rfl
@[simp] theorem State.afterReset_srcLen : (s.afterReset).srcLen = 0 := rfl
@[simp] theorem State.afterReset_dstAddr : (s.afterReset).dstAddr = 0 := rfl
@[simp] theorem State.afterReset_dstCap : (s.afterReset).dstCap = 0 := rfl
@[simp] theorem State.afterReset_keyAddr : (s.afterReset).keyAddr = 0 := rfl
@[simp] theorem State.afterReset_keyLen : (s.afterReset).keyLen = 0 := rfl
@[simp] theorem State.afterReset_resLen : (s.afterReset).resLen = 0 := rfl
@[simp] theorem State.afterReset_resVer : (s.afterReset).resVer = 0 := rfl
@[simp] theorem State.afterReset_errInfo : (s.afterReset).errInfo = 0 := rfl
@[simp] theorem State.afterReset_slots : (s.afterReset).slots = List.replicate s.cfg.numCtx Slot.reset := rfl
@[simp] theorem State.afterReset_mem : (s.afterReset).mem = [] := rfl
@[simp] theorem State.afterReset_script : (s.afterReset).script = s.script := rfl
@[simp] theorem State.afterReset_readings : (s.afterReset).readings = s.readings := rfl

end Sys2Proof.Machine
end

