-- ==== Sys2Proof/Laws/Ops.lean ====
section
/-! SUPPORT. Once for each shared operation, everything it can do: completing a command, naming a slot, reading an
operand, the one-shot shape. -/

namespace Sys2Proof.Machine

/-! ### Completion -/

/-- The two ends of `succeed`: the output does not fit and nothing but the status changes, or it is stored. -/
theorem State.succeed_cases (s : State) (out : List Byte) (ver : Byte) :
    (s.dstCap.toNat < out.length ∧ s.succeed out ver = s.fail .outputOverflow 0) ∨
    (out.length ≤ s.dstCap.toNat ∧
      s.succeed out ver = (s.store out).complete .ok 0 (BitVec.ofNat 32 out.length) ver) := by
  unfold State.succeed
  split
  · exact .inl ⟨‹_›, rfl⟩
  · exact .inr ⟨by omega, rfl⟩

/-- An output that fits is stored. -/
theorem State.succeed_of_fits {s : State} {out : List Byte} (h : out.length ≤ s.dstCap.toNat) (ver : Byte) :
    s.succeed out ver = (s.store out).complete .ok 0 (BitVec.ofNat 32 out.length) ver := by
  rcases s.succeed_cases out ver with ⟨h', -⟩ | ⟨-, h'⟩
  · omega
  · exact h'

/-- An output that does not fit changes nothing but the status and the result registers. -/
theorem State.succeed_of_overflow {s : State} {out : List Byte} (h : s.dstCap.toNat < out.length) (ver : Byte) :
    s.succeed out ver = s.fail .outputOverflow 0 := by
  rcases s.succeed_cases out ver with ⟨-, h'⟩ | ⟨h', -⟩
  · exact h'
  · omega

/-- The empty output never overflows and stores nothing (60 R274). -/
@[simp] theorem State.succeed_nil (s : State) (ver : Byte) : s.succeed [] ver = s.complete .ok 0 0 ver := by
  rw [State.succeed_of_fits (Nat.zero_le _)]
  rfl

/-- A command's end: it failed, with nothing stored, or it stored an output that fits. -/
theorem State.finish_cases (s : State) (r : CmdResult) :
    (∃ code info, s.finish r = s.fail code info) ∨
    (∃ out ver, r = .ok out ver ∧ out.length ≤ s.dstCap.toNat ∧
      s.finish r = (s.store out).complete .ok 0 (BitVec.ofNat 32 out.length) ver) := by
  cases r with
  | error code info => exact .inl ⟨code, info, rfl⟩
  | ok out ver =>
    rcases s.succeed_cases out ver with ⟨-, h⟩ | ⟨hf, h⟩
    · exact .inl ⟨_, _, h⟩
    · exact .inr ⟨out, ver, rfl, hf, h⟩

/-! ### Slots -/

/-- A slot that a CTX field names exists and its number is below NUM_CTX (30 R94). -/
theorem State.slot?_eq_some_iff {s : State} {c : BitVec 4} {sl : Slot} :
    s.slot? c = some sl ↔ c.toNat < s.cfg.numCtx ∧ s.slots[c.toNat]? = some sl := by
  unfold State.slot?
  split <;> simp_all

/-- A slot that is named is one of the slots. -/
theorem State.slot?_mem {s : State} {c : BitVec 4} {sl : Slot} (h : s.slot? c = some sl) : sl ∈ s.slots :=
  List.mem_of_getElem? (State.slot?_eq_some_iff.1 h).2

/-- The slot just replaced is the new one. -/
theorem State.slot?_setSlot_same {s : State} {c : BitVec 4} {sl new : Slot} (h : s.slot? c = some sl) :
    (s.setSlot c new).slot? c = some new := by
  obtain ⟨hc, hs⟩ := State.slot?_eq_some_iff.1 h
  refine State.slot?_eq_some_iff.2 ⟨hc, ?_⟩
  have hlt : c.toNat < s.slots.length := by
    by_contra hge
    rw [List.getElem?_eq_none (by omega)] at hs
    cases hs
  simp [hlt]

/-- Every other slot is as before. -/
theorem State.slot?_setSlot_other (s : State) {c d : BitVec 4} (new : Slot) (h : d ≠ c) :
    (s.setSlot c new).slot? d = s.slot? d := by
  have : c.toNat ≠ d.toNat := fun e => h (BitVec.eq_of_toNat_eq e.symm)
  simp [State.slot?, this]

/-! ### Operands -/

/-- An operand was read, or the machine stops with UninitRead (20 R64). -/
theorem withBytes_cases (operand : Option (List Byte)) (k : List Byte → Host.Outcome State Fault Refusal) :
    (operand = none ∧ withBytes operand k = .fault .uninitRead) ∨
    (∃ m, operand = some m ∧ withBytes operand k = k m) := by
  cases operand with
  | none => exact .inl ⟨rfl, rfl⟩
  | some m => exact .inr ⟨m, rfl, rfl⟩

/-- Everything a one-shot command can do: a region is out of range, a source byte was never written, or it computes on
the source bytes and ends. -/
theorem State.oneShot_cases (s : State) (f : List Byte → CmdResult) :
    ((s.sourceInRange = false ∨ s.destInRange = false) ∧ s.oneShot f = .next (s.fail .addressRange 0)) ∨
    (s.sourceInRange = true ∧ s.destInRange = true ∧
      ((s.sourceBytes = none ∧ s.oneShot f = .fault .uninitRead) ∨
       (∃ m, s.sourceBytes = some m ∧ s.oneShot f = .next (s.finish (f m))))) := by
  unfold State.oneShot
  cases hs : s.sourceInRange
  · exact .inl ⟨.inl rfl, by simp⟩
  · cases hd : s.destInRange
    · exact .inl ⟨.inr rfl, by simp⟩
    · refine .inr ⟨rfl, rfl, ?_⟩
      rcases withBytes_cases s.sourceBytes (fun m => .next (s.finish (f m))) with ⟨h, h'⟩ | ⟨m, h, h'⟩
      · exact .inl ⟨h, by simpa using h'⟩
      · exact .inr ⟨m, h, by simpa using h'⟩

/-- A region in range lies in DMEM (20 R70). -/
theorem inRange_iff {cfg : Config} {a n : Word} : inRange cfg a n = true ↔ a.toNat + n.toNat ≤ cfg.dmemSize := by
  simp [inRange]

/-- The source operand has SRC_LEN bytes. -/
theorem State.length_sourceBytes {s : State} {m : List Byte} (h : s.sourceBytes = some m) :
    m.length = s.srcLen.toNat := Memory.length_readBytes h

/-- The key operand has KEY_LEN bytes. -/
theorem State.length_keyBytes {s : State} {m : List Byte} (h : s.keyBytes = some m) :
    m.length = s.keyLen.toNat := Memory.length_readBytes h

end Sys2Proof.Machine
end

