-- ==== Sys2Proof/Laws/Exec.lean ====
section
/-! SUPPORT. Said once: every way a command can end, and every way a step can go. A claim about all commands or all
steps is a case analysis on `exec_end` or `step_cases`; no meaning has to be unfolded again. -/

namespace Sys2Proof.Machine

/-! ### Ranges -/

/-- The range check of the source region is the statement that it lies in DMEM (20 R70). -/
theorem sourceInRange_iff (s : State) : s.sourceInRange = true ↔ s.SourceInside := decide_eq_true_iff

/-- The range check of the key region is the statement that it lies in DMEM (20 R70). -/
theorem keyInRange_iff (s : State) : s.keyInRange = true ↔ s.KeyInside := decide_eq_true_iff

/-- The range check of the destination region is the statement that it lies in DMEM (20 R70). -/
theorem destInRange_iff (s : State) : s.destInRange = true ↔ s.DestInside := decide_eq_true_iff

/-! ### Commands -/

/-- The ways a command can end. -/
inductive CommandEnd (i : Instr) (s : State) : Host.Outcome State Fault Refusal → Prop
  /-- A byte of an operand was never written. -/
  | fault : CommandEnd i s (.fault .uninitRead)
  /-- It fails: only the status and the result registers change. -/
  | failed (code : Status) (info : Word) (listed : statusCode code ∈ reportable i)
      (noInfo : code ≠ .invalidCharacter → info = 0) (notOk : code ≠ .ok) : CommandEnd i s (.next (s.fail code info))
  /-- It stores an output and changes no slot. -/
  | stored (out : List Byte) (ver : Byte) (hasDest : usesDest i = true) (fits : out.length ≤ s.dstCap.toNat)
      (inside : s.DestInside)
      (replay : ∀ c, namedSlot i = some c → ∃ sl, s.slot? c = some sl ∧ sl.lstate = .finalized ∧ i = .ctxFinal c) :
      CommandEnd i s (.next ((s.store out).complete .ok 0 (BitVec.ofNat 32 out.length) ver))
  /-- CTX_INIT creates a context. -/
  | created (c : BitVec 4) (v : Variant) (sl : Slot) (named : s.slot? c = some sl) (which : i = .ctxInit c v) :
      CommandEnd i s (.next ((s.setSlot c (Slot.fresh v)).complete .ok 0 0 0))
  /-- CTX_UPDATE absorbs its source into a live context. -/
  | updated (c : BitVec 4) (sl : Slot) (m : List Byte) (named : s.slot? c = some sl) (which : i = .ctxUpdate c)
      (live : sl.lstate = .init ∨ sl.lstate = .absorbing) (source : s.sourceBytes = some m) :
      CommandEnd i s (.next ((s.setSlot c (sl.update m)).complete .ok 0 0 0))
  /-- CTX_FINAL finalizes a live context and stores its digest. -/
  | finalized (c : BitVec 4) (sl : Slot) (named : s.slot? c = some sl) (which : i = .ctxFinal c)
      (live : sl.lstate = .init ∨ sl.lstate = .absorbing) (fits : digestLen sl.var ≤ s.dstCap.toNat)
      (inside : s.DestInside) :
      CommandEnd i s (.next (((s.setSlot c sl.finalize).store sl.finalize.digestBytes).complete .ok 0
        (BitVec.ofNat 32 (digestLen sl.var)) 0))

/-- The digest that finalization leaves has the length of the variant (40 R141). -/
theorem Slot.length_digestBytes_finalize (sl : Slot) : sl.finalize.digestBytes.length = digestLen sl.var := by
  rw [Slot.digestBytes_finalize, length_digestOut]

/-- An output that fits has a length that RES_LEN can hold. -/
theorem toNat_ofNat_of_fits {s : State} {out : List Byte} (h : out.length ≤ s.dstCap.toNat) :
    (BitVec.ofNat 32 out.length).toNat = out.length := by
  have := s.dstCap.isLt
  simp only [BitVec.toNat_ofNat]
  omega

/-- How a command without a slot ends, given what its computation can report. -/
theorem finish_end {i : Instr} {s : State} {r : CmdResult} (hd : usesDest i = true) (hc : namedSlot i = none)
    (hin : s.DestInside) (ho : statusCode .outputOverflow ∈ reportable i)
    (h : ∀ code info, r = .error code info →
      statusCode code ∈ reportable i ∧ (code ≠ .invalidCharacter → info = 0) ∧ code ≠ .ok) :
    CommandEnd i s (.next (s.finish r)) := by
  cases r with
  | error code info => exact .failed _ _ (h _ _ rfl).1 (h _ _ rfl).2.1 (h _ _ rfl).2.2
  | ok out ver =>
    rcases s.succeed_cases out ver with ⟨-, h2⟩ | ⟨h1, h2⟩
    · rw [State.finish, h2]; exact .failed _ _ ho (fun _ => rfl) (by decide)
    · rw [State.finish, h2]; exact .stored _ _ hd h1 hin (by simp [hc])

/-- How a one-shot command ends, given what its computation can report. -/
theorem oneShot_end {i : Instr} {s : State} (f : List Byte → CmdResult) (hd : usesDest i = true)
    (hc : namedSlot i = none) (ho : statusCode .outputOverflow ∈ reportable i)
    (hr : statusCode .addressRange ∈ reportable i)
    (h : ∀ m code info, f m = .error code info →
      statusCode code ∈ reportable i ∧ (code ≠ .invalidCharacter → info = 0) ∧ code ≠ .ok) :
    CommandEnd i s (s.oneShot f) := by
  rcases s.oneShot_cases f with ⟨-, e⟩ | ⟨-, h2, ⟨-, e⟩ | ⟨m, -, e⟩⟩ <;> rw [e]
  · exact .failed _ _ hr (fun _ => rfl) (by decide)
  · exact .fault
  · exact finish_end hd hc ((destInRange_iff s).1 h2) ho (h m)

theorem ctxInit_end (c : BitVec 4) (v : Variant) (s : State) :
    CommandEnd (.ctxInit c v) s (execCtxInit c v s) := by
  unfold execCtxInit
  split
  · exact .failed _ _ (by simp [reportable, statusCode]) (fun _ => rfl) (by decide)
  · rename_i sl h; rw [State.succeed_nil]; exact .created c v sl h rfl

theorem ctxUpdate_end (c : BitVec 4) (s : State) : CommandEnd (.ctxUpdate c) s (execCtxUpdate c s) := by
  unfold execCtxUpdate
  split
  · exact .failed _ _ (by simp [reportable, statusCode]) (fun _ => rfl) (by decide)
  rename_i sl h
  split
  · exact .failed _ _ (by simp [reportable, statusCode]) (fun _ => rfl) (by decide)
  rename_i hl
  split
  · exact .failed _ _ (by simp [reportable, statusCode]) (fun _ => rfl) (by decide)
  rcases withBytes_cases s.sourceBytes (fun m => .next ((s.setSlot c (sl.update m)).succeed [] 0)) with ⟨-, e⟩ | ⟨m, hm, e⟩
    <;> rw [e]
  · exact .fault
  · rw [State.succeed_nil]; exact .updated c sl m h rfl (by cases hh : sl.lstate <;> simp_all) hm

theorem ctxFinal_end (c : BitVec 4) (s : State) : CommandEnd (.ctxFinal c) s (execCtxFinal c s) := by
  unfold execCtxFinal
  split
  · exact .failed _ _ (by simp [reportable, statusCode]) (fun _ => rfl) (by decide)
  rename_i sl h
  split
  · exact .failed _ _ (by simp [reportable, statusCode]) (fun _ => rfl) (by decide)
  rename_i hne
  split
  · exact .failed _ _ (by simp [reportable, statusCode]) (fun _ => rfl) (by decide)
  rename_i hin
  have hin : s.DestInside := (destInRange_iff s).1 (by simpa using hin)
  split
  · rename_i hf
    rcases s.succeed_cases sl.digestBytes 0 with ⟨-, h2⟩ | ⟨h1, h2⟩ <;> rw [h2]
    · exact .failed _ _ (by simp [reportable, statusCode]) (fun _ => rfl) (by decide)
    · exact .stored _ _ rfl h1 hin fun d hd => by cases hd; exact ⟨sl, h, hf, rfl⟩
  rename_i hnf
  split
  · exact .failed _ _ (by simp [reportable, statusCode]) (fun _ => rfl) (by decide)
  rename_i hcap
  have hl := sl.length_digestBytes_finalize
  rw [State.succeed_of_fits (by rw [hl, State.setSlot_dstCap]; omega), hl]
  exact .finalized c sl h rfl (by cases hh : sl.lstate <;> simp_all) (by omega) hin

theorem hmac_end (v : MacVariant) (s : State) : CommandEnd (.hmac v) s (execHmac v s) := by
  unfold execHmac
  split
  · exact .failed _ _ (by simp [reportable, statusCode]) (fun _ => rfl) (by decide)
  split
  · exact .failed _ _ (by simp [reportable, statusCode]) (fun _ => rfl) (by decide)
  split
  · exact .failed _ _ (by simp [reportable, statusCode]) (fun _ => rfl) (by decide)
  rename_i hin
  have hin : s.DestInside := (destInRange_iff s).1 (by simpa using hin)
  cases s.keyBytes with
  | none => exact .fault
  | some key =>
    cases s.sourceBytes with
    | none => exact .fault
    | some msg => exact finish_end rfl rfl hin (by simp [reportable, statusCode]) (by simp)

theorem deriveP2pkh_end (net : Net) (s : State) : CommandEnd (.deriveP2pkh net) s (execDeriveP2pkh net s) := by
  unfold execDeriveP2pkh
  split
  · exact .failed _ _ (by simp [reportable, statusCode]) (fun _ => rfl) (by decide)
  split
  · exact .failed _ _ (by simp [reportable, statusCode]) (fun _ => rfl) (by decide)
  rename_i hin
  have hin : s.DestInside := (destInRange_iff s).1 (by simpa using hin)
  split
  · exact .failed _ _ (by simp [reportable, statusCode]) (fun _ => rfl) (by decide)
  cases s.sourceBytes with
  | none => exact .fault
  | some pub => exact finish_end rfl rfl hin (by simp [reportable, statusCode]) (by simp)

/-- Base58 decoding alone reports only an invalid character (43 R222). -/
theorem b58Decode_error {str : List Byte} {e : CodecError} (h : b58Decode str = .error e) :
    ∃ byte index, e = .invalidCharacter byte index := by
  unfold b58Decode at h
  split at h
  · cases h; exact ⟨_, _, rfl⟩
  · cases h

theorem b58Dec_end (s : State) : CommandEnd .b58Dec s (execB58Dec s) := by
  refine oneShot_end _ rfl rfl (by decide) (by decide) fun m code info => ?_
  cases h : b58Decode m with
  | ok r => simp
  | error e =>
    obtain ⟨byte, index, rfl⟩ := b58Decode_error h
    simp only [codecFailure]
    intro h; cases h
    simp [reportable, statusCode]

theorem b58cDec_end (s : State) : CommandEnd .b58cDec s (execB58cDec s) := by
  refine oneShot_end _ rfl rfl (by decide) (by decide) fun m code info => ?_
  cases h : b58CheckDecode m with
  | ok r => simp
  | error e => cases e <;> simp only [codecFailure] <;> intro h <;> cases h <;> simp [reportable, statusCode]

theorem wrapP2sh_end (s : State) : CommandEnd .wrapP2sh s (execWrapP2sh s) := by
  refine oneShot_end _ rfl rfl (by decide) (by decide) fun m code info => ?_
  cases h : p2pkhPayload m with
  | some r => simp
  | none => simp only; intro h; cases h; decide

/-- Everything a command can do. -/
theorem exec_end (i : Instr) (s : State) : CommandEnd i s (exec i s) := by
  cases i with
  | ctxInit c v => exact ctxInit_end c v s
  | ctxUpdate c => exact ctxUpdate_end c s
  | ctxFinal c => exact ctxFinal_end c s
  | sha256 => exact oneShot_end _ rfl rfl (by decide) (by decide) (by simp)
  | sha224 => exact oneShot_end _ rfl rfl (by decide) (by decide) (by simp)
  | rmd160 => exact oneShot_end _ rfl rfl (by decide) (by decide) (by simp)
  | hmac v => exact hmac_end v s
  | b58Enc => exact oneShot_end _ rfl rfl (by decide) (by decide) (by simp)
  | b58Dec => exact b58Dec_end s
  | b58cEnc ver =>
    exact oneShot_end _ rfl rfl (by simp [reportable, statusCode]) (by simp [reportable, statusCode]) (by simp)
  | b58cDec => exact b58cDec_end s
  | deriveP2pkh net => exact deriveP2pkh_end net s
  | wrapP2sh => exact wrapP2sh_end s

/-! ### Steps -/

/-- What a step can do that gives a next state: the ENGINE runs the command in CMD, with some of the schedule left; or
reset; or a host access or an idle engine, which leave every slot and the parameters alone. -/
theorem step_cases {s t : State} (h : step s = .next t) :
    (s.busy = true ∧ ∃ later, runCommand { s with script := later } = .next t) ∨
    (∃ later, s.script = .reset :: later ∧ t = { s with script := later }.afterReset) ∨
    (t.slots = s.slots ∧ t.cfg = s.cfg) := by
  have engine : ∀ {s' : State} {later}, s' = { s with script := later } → engineStep s' = .next t →
      (s.busy = true ∧ ∃ later, runCommand { s with script := later } = .next t) ∨ (t.slots = s.slots ∧ t.cfg = s.cfg) := by
    rintro s' later rfl h
    unfold engineStep at h
    split at h
    · exact .inl ⟨by assumption, later, h⟩
    · cases h; exact .inr ⟨rfl, rfl⟩
  unfold step runStep at h
  split at h
  · exact (engine (later := s.script) rfl h).imp_right .inr
  rename_i e later hs
  cases e with
  | engine => exact (engine rfl h).imp_right .inr
  | reset => cases h; exact .inr (.inl ⟨later, hs, rfl⟩)
  | wr r v =>
    simp only [runEvent, hostWrite] at h
    split at h
    · cases h
    · cases h; cases r <;> exact .inr (.inr ⟨rfl, rfl⟩)
  | rd r =>
    simp only [runEvent, hostRead] at h
    split at h <;> cases h
    exact .inr (.inr ⟨rfl, rfl⟩)
  | mw a b =>
    simp only [runEvent, hostMemWrite] at h
    split at h
    · cases h
    split at h <;> cases h
    exact .inr (.inr ⟨rfl, rfl⟩)
  | mr a =>
    simp only [runEvent, hostMemRead] at h
    split at h
    · cases h
    split at h
    · cases h
    split at h <;> cases h
    exact .inr (.inr ⟨rfl, rfl⟩)
  | poll =>
    simp only [runEvent, hostPoll] at h
    split at h
    · cases h; exact .inr (.inr ⟨rfl, rfl⟩)
    · exact (engine (later := s.script) rfl h).imp_right .inr

/-- What the ENGINE's command can do that gives a next state: the word is illegal, or it runs the command. -/
theorem runCommand_cases {s t : State} (h : runCommand s = .next t) :
    (∃ e, decode s.cfg.numCtx s.cmd = .error e ∧ t = s.illegal) ∨
    (∃ i, decode s.cfg.numCtx s.cmd = .ok i ∧ exec i s = .next t) := by
  unfold runCommand at h
  split at h
  · cases h; exact .inl ⟨_, by assumption, rfl⟩
  · exact .inr ⟨_, by assumption, h⟩

end Sys2Proof.Machine
end

