-- ==== Sys2Proof/Tests/Slice0.lean ====
section
/-! SUPPORT. Tests of one step or one operation, with expected values from the spec's vectors (95, cited per test), and
for each obligation with hypotheses a witness that meets them. Byte strings are written as one number. -/

open Sys2Proof Sys2Proof.Machine

/-! ### Helpers -/

/-- A byte string of `n` bytes, most significant first, from a number. -/
def Tests.bytes (n w : Nat) : List Byte := (List.range n).map fun k => BitVec.ofNat 8 (w >>> (8 * (n - 1 - k)))

/-- After reset, with a source string at address 0 and an output region of `cap` bytes at 0x100. -/
def Tests.sourced (m : List Byte) (cap : Word) : State :=
  { State.reset with mem := Memory.writeBytes [] 0 m, srcLen := BitVec.ofNat 32 m.length, dstAddr := 0x100, dstCap := cap }

/-- The same, with a key at 0x800. -/
def Tests.keyed (key m : List Byte) (cap : Word) : State :=
  { Tests.sourced m cap with
    mem := Memory.writeBytes (Memory.writeBytes [] 0 m) 0x800 key, keyAddr := 0x800, keyLen := BitVec.ofNat 32 key.length }

/-- After reset, with one slot holding a context. -/
def Tests.withSlot (sl : Slot) (s : State) : State := s.setSlot 0 sl

/-- The state after, where there is one. -/
def Tests.after (s : State) : Host.Outcome State Fault Refusal → State
  | .next t => t
  | .fault _ => s
  | .refused _ => s

/-- The outcome is a next state with this STATUS, RES_VER, ERR_INFO and output string. -/
def Tests.gives (o : Host.Outcome State Fault Refusal) (status : Word) (ver : Byte) (info : Word) (out : List Byte) :
    Bool :=
  match o with
  | .next t =>
    t.regRead .status == status && t.regRead .resLen == BitVec.ofNat 32 out.length &&
      t.regRead .resVer == ver.setWidth 32 && t.regRead .errInfo == info &&
      t.mem.readBytes t.dstAddr.toNat t.resLen.toNat == some out
  | .fault _ => false
  | .refused _ => false

/-- The outcome is this fault. -/
def Tests.faults (o : Host.Outcome State Fault Refusal) (f : Fault) : Bool :=
  match o with
  | .next _ => false
  | .fault g => g == f
  | .refused _ => false

/-- The decoder gives this command. -/
def Tests.decodes (numCtx : Nat) (w : Word) (i : Instr) : Bool :=
  match decode numCtx w with
  | .ok j => i == j
  | .error _ => false

/-- The decoder refuses the word for this reason. -/
def Tests.rejects (numCtx : Nat) (w : Word) (e : Illegal) : Bool :=
  match decode numCtx w with
  | .ok _ => false
  | .error f => e == f

open Tests

/-- The strings of 95 L2.6 and L2.7. -/
def Tests.abc : List Byte := [0x61, 0x62, 0x63]
/-- "1111111111111111111114oLvT2" -/
def Tests.zeroAddress : List Byte := List.replicate 21 0x31 ++ bytes 6 0x346f4c765432
/-- "1PMycacnJaSqwwJqjawXBErnLsZ7RkXUAs" -/
def Tests.p2pkhAddress : List Byte :=
  bytes 34 0x31504d796361636e4a61537177774a716a6177584245726e4c735a37526b58554173
/-- "3BxwGNjvG4CP14tAZodgYyZ7UTjruYDyAM" -/
def Tests.p2shAddress : List Byte :=
  bytes 34 0x33427877474e6a7647344350313474415a6f646759795a3755546a7275594479414d
/-- The public key of 95 L2.7 A1. -/
def Tests.pubkey : List Byte := bytes 33 0x0250863ad64a87ae8a2fe83c1af1a8403cb53f53e486d8511dad8a04887e5b2352

/-! ### Well-formedness: the ill-formed term of each check is refused -/

theorem test_wf_ctxInit : Instr.wellFormed 4 (.ctxInit 4 .sha256) = false := by decide
theorem test_wf_ctxUpdate : Instr.wellFormed 4 (.ctxUpdate 15) = false := by decide
theorem test_wf_ctxFinal : Instr.wellFormed 1 (.ctxFinal 1) = false := by decide
theorem test_wf_last_slot : Instr.wellFormed 16 (.ctxFinal 15) = true := by decide
theorem test_wf_mw : Event.wellFormed Config.default (.mw 4096 0) = false := by decide
theorem test_wf_mr : Event.wellFormed Config.default (.mr 4096) = false := by decide
theorem test_wf_mr_last : Event.wellFormed Config.default (.mr 4095) = true := by decide

/-! ### Decoding: words written out from 30 R91 and R98 (95 L2.1), one per constructor and corner -/

theorem test_decode_ctxInit : decodes 4 0x00002301 (.ctxInit 3 .rmd160) = true := by decide
theorem test_decode_ctxInit_zero : decodes 4 0x00000001 (.ctxInit 0 .sha256) = true := by decide
theorem test_decode_ctxInit_last : decodes 16 0x00000F01 (.ctxInit 15 .sha256) = true := by decide
theorem test_decode_ctxUpdate : decodes 4 0x00000102 (.ctxUpdate 1) = true := by decide
theorem test_decode_ctxFinal : decodes 4 0x00000203 (.ctxFinal 2) = true := by decide
theorem test_decode_sha256 : decodes 4 0x00000010 .sha256 = true := by decide
theorem test_decode_sha224 : decodes 4 0x00000011 .sha224 = true := by decide
theorem test_decode_rmd160 : decodes 4 0x00000012 .rmd160 = true := by decide
theorem test_decode_hmac : decodes 4 0x00001013 (.hmac .sha224) = true := by decide
theorem test_decode_hmac_zero : decodes 4 0x00000013 (.hmac .sha256) = true := by decide
theorem test_decode_b58Enc : decodes 4 0x00000020 .b58Enc = true := by decide
theorem test_decode_b58Dec : decodes 4 0x00000021 .b58Dec = true := by decide
theorem test_decode_b58cEnc : decodes 4 0x00FF0022 (.b58cEnc 255) = true := by decide
theorem test_decode_b58cDec : decodes 4 0x00000023 .b58cDec = true := by decide
theorem test_decode_deriveP2pkh : decodes 4 0x00004030 (.deriveP2pkh .test) = true := by decide
theorem test_decode_deriveP2pkh_main : decodes 4 0x00000030 (.deriveP2pkh .main) = true := by decide
theorem test_decode_wrapP2sh : decodes 4 0x00000031 .wrapP2sh = true := by decide

/-- 95 L2.1: reserved opcodes. -/
theorem test_decode_reserved_op :
    rejects 4 0x00000000 .noRow && rejects 4 0x000000FF .noRow && rejects 4 0x00000014 .noRow = true := by decide
/-- 95 L2.1: fields a command does not use. -/
theorem test_decode_unused_field :
    rejects 4 0x00004001 .noRow && rejects 4 0x00001002 .noRow && rejects 4 0x00010003 .noRow &&
      rejects 4 0x00000110 .noRow && rejects 4 0x00001010 .noRow && rejects 4 0x00010023 .noRow = true := by decide
/-- 95 L2.1: reserved bits. -/
theorem test_decode_reserved_bit :
    rejects 4 0x00008010 .noRow && rejects 4 0x01000010 .noRow && rejects 4 0x80000031 .noRow = true := by decide
/-- 95 L2.1: reserved variants. -/
theorem test_decode_reserved_variant :
    rejects 4 0x00003001 .reservedVariant && rejects 4 0x00002013 .noRow && rejects 4 0x00003013 .noRow = true := by
  decide
/-- 95 L2.1: CTX ≥ NUM_CTX. -/
theorem test_decode_no_slot : rejects 4 0x00000401 .noSuchSlot = true := by decide
theorem test_decode_table_word : decodeTableWord 32 0x006F0022 = some (.b58cEnc 111) := by decide
theorem test_decode_table_word_long : decodeTableWord 40 0x100000010 = none := by decide

/-! ### Commands, one step each -/

/-- 95 L2.3. -/
theorem test_sha256_abc : gives (exec .sha256 (sourced abc 32)) 0x002 0 0
    (bytes 32 0xba7816bf8f01cfea414140de5dae2223b00361a396177a9cb410ff61f20015ad) = true := by decide +kernel
/-- 95 L2.2 X8: the digest is 32 bytes, even of the empty message. -/
theorem test_sha256_overflow : gives (exec .sha256 (sourced [] 0)) 0x1202 0 0 [] = true := by decide +kernel
/-- 95 L2.3. -/
theorem test_sha224_abc : gives (exec .sha224 (sourced abc 28)) 0x002 0 0
    (bytes 28 0x23097d223405d8228642a477bda255b32aadbce4bda0b3f7e36c9da7) = true := by decide +kernel
/-- 95 L2.3: the 56-byte message needs a second block. -/
theorem test_sha224_two_blocks :
    digest .sha224 (bytes 56
      0x6162636462636465636465666465666765666768666768696768696a68696a6b696a6b6c6a6b6c6d6b6c6d6e6c6d6e6f6d6e6f706e6f7071)
      = bytes 28 0x75388b16512776cc5dba5da1fd890150b0c6455cb4f58b1952522525 := by decide +kernel
/-- 95 L2.5. -/
theorem test_rmd160_abc : gives (exec .rmd160 (sourced abc 20)) 0x002 0 0
    (bytes 20 0x8eb208f7e05d987a9b044a8e98c6b087f15a0bfc) = true := by decide +kernel
/-- 95 L2.5. -/
theorem test_rmd160_two_blocks :
    digest .rmd160 (List.replicate 64 0x61) = bytes 20 0x9dfb7d374ad924f3f88de96291c33e9abed53e32 := by decide +kernel
/-- 95 L2.4, the second row. -/
theorem test_hmac_sha224 : gives (exec (.hmac .sha224)
    (keyed (bytes 4 0x4a656665) (bytes 28 0x7768617420646f2079612077616e7420666f72206e6f7468696e673f) 28)) 0x002 0 0
    (bytes 28 0xa30e01098bc6dbbf45690f3a7e9e6d0f8bbea2a39e6148008fd05e44) = true := by decide +kernel
/-- 95 L2.4, the last row: a key of 65 bytes is hashed first. -/
theorem test_hmac_long_key : gives (exec (.hmac .sha256) (keyed (List.replicate 65 0x01) abc 32)) 0x002 0 0
    (bytes 32 0xfb1e9b9f783337ca807b11cd396d1c31eb5267d95d2d2bb0f1d83ffafbbf64e9) = true := by decide +kernel
/-- 95 L2.6 E-11: each leading zero byte gives one `1`. -/
theorem test_b58Enc_zeros : gives (exec .b58Enc (sourced (bytes 6 0x0000287fb4cd) 8)) 0x002 0 0
    (bytes 8 0x3131323333514334) = true := by decide +kernel
/-- 95 L2.2 X9: the empty output at the very end of DMEM. -/
theorem test_b58Enc_empty : gives (exec .b58Enc { sourced [] 0 with dstAddr := 0x1000 }) 0x002 0 0 [] = true := by
  decide +kernel
/-- 95 L2.6 D-8. -/
theorem test_b58Dec_trailing_one : gives (exec .b58Dec (sourced [0x7a, 0x31] 64)) 0x002 0 0 [0x0c, 0xea] = true := by
  decide +kernel
/-- 95 L2.6 D-17: the first bad byte, not the last. -/
theorem test_b58Dec_invalid :
    gives (exec .b58Dec (sourced [0x31, 0x49, 0x30] 64)) 0x102 0 0x149 [] = true := by decide +kernel
/-- 95 L2.6 B5-1. -/
theorem test_b58cEnc_zero_address :
    gives (exec (.b58cEnc 0) (sourced (List.replicate 20 0) 64)) 0x002 0 0 zeroAddress = true := by decide +kernel
/-- 95 L2.6 B5-3; RES_VER by 10 R34 (log 8). -/
theorem test_b58cEnc_version : gives (exec (.b58cEnc 111) (sourced (List.replicate 20 0) 64)) 0x002 111 0
    (bytes 34 0x6d6657784a343579703253466e375563695a794e7076444b727a626879664b725938) = true := by decide +kernel
/-- 95 L2.6 B5-7. -/
theorem test_b58cDec_checksum :
    gives (exec .b58cDec (sourced (zeroAddress.take 26 ++ [0x33]) 64)) 0x202 0 0 [] = true := by decide +kernel
/-- 95 L2.2 X7: base58check decoding, the payload fits exactly. -/
theorem test_b58cDec_fits : gives (exec .b58cDec (sourced zeroAddress 20)) 0x002 0 0 (List.replicate 20 0) = true := by
  decide +kernel
/-- 95 L2.7 A1. -/
theorem test_deriveP2pkh : gives (exec (.deriveP2pkh .main) (sourced pubkey 64)) 0x002 0 0 p2pkhAddress = true := by
  decide +kernel
/-- 95 L2.2 X3: the range check comes before the length check. -/
theorem test_deriveP2pkh_range :
    gives (exec (.deriveP2pkh .main) { sourced (pubkey.take 32) 1 with dstAddr := 0x1000 }) 0x1102 0 0 [] = true := by
  decide +kernel
/-- 95 L2.7 W1. -/
theorem test_wrapP2sh : gives (exec .wrapP2sh (sourced p2pkhAddress 64)) 0x002 5 0 p2shAddress = true := by
  decide +kernel
/-- 95 L2.7 W5: a P2SH address cannot be wrapped again. -/
theorem test_wrapP2sh_twice : gives (exec .wrapP2sh (sourced p2shAddress 64)) 0x602 0 0 [] = true := by decide +kernel

/-- 40 R150 and 95 L2.3 T7: CTX_INIT shows INIT and its variant. -/
theorem test_ctxInit_shows :
    (after State.reset (exec (.ctxInit 1 .rmd160) State.reset)).regRead .ctxState = 0x4 ∧
      (after State.reset (exec (.ctxInit 1 .rmd160) State.reset)).regRead .ctxVariant = 0x8 := by decide
/-- 30 R94, R100. -/
theorem test_ctxInit_missing_slot : gives (exec (.ctxInit 4 .sha256) State.reset) 0x1002 0 0 [] = true := by decide
/-- 95 L2.2 X1: the state check comes before the range check. -/
theorem test_ctxUpdate_empty :
    gives (exec (.ctxUpdate 0) { State.reset with srcAddr := 0xFFFF, srcLen := 5 }) 0x402 0 0 [] = true := by decide
/-- 95 L2.3 T4: an empty update still moves the slot to ABSORBING. -/
theorem test_ctxUpdate_nothing :
    ((exec (.ctxUpdate 0) (withSlot (Slot.fresh .sha256) State.reset) |> after State.reset).regRead .ctxState) = 0x2 := by
  decide +kernel
/-- 95 L2.3 T3: SHA-224 of nothing. -/
theorem test_ctxFinal_fresh : gives (exec (.ctxFinal 0) (withSlot (Slot.fresh .sha224) (sourced [] 28))) 0x002 0 0
    (bytes 28 0xd14a028c2a3a2bc9476102bb288234c415a2b01f828ea62ac5b3e42f) = true := by decide +kernel
/-- 95 L2.3 T1: "ab" and "c" give the digest of "abc". -/
theorem test_ctxFinal_split : gives (exec (.ctxFinal 0)
    (withSlot (((Slot.fresh .sha256).update [0x61, 0x62]).update [0x63]) (sourced [] 32))) 0x002 0 0
    (bytes 32 0xba7816bf8f01cfea414140de5dae2223b00361a396177a9cb410ff61f20015ad) = true := by decide +kernel
/-! ### Operand forms and padding -/

/-- 95 L2.2, the inRange vectors. -/
theorem test_inRange :
    [(0xFFF, 1), (0xFFF, 2), (0x1000, 0), (0x1001, 0), (0, 4096), (0, 4097), (0xFFFFFFFF, 1)].map
      (fun x : Word × Word => inRange Config.default x.1 x.2) = [true, false, true, false, true, false, false] := by decide
/-- 95 L2.3, the padding lengths. -/
theorem test_padding_lengths :
    [0, 3, 55, 56, 63, 64].map (fun t : BitVec 64 => (padding .sha256 t).length) = [64, 61, 9, 72, 65, 64] := by
  decide +kernel
/-- 95 L2.5: the bit length of RIPEMD-160 is little-endian. -/
theorem test_padding_rmd160 : (padding .rmd160 3).drop 53 = [0x18, 0, 0, 0, 0, 0, 0, 0] := by decide +kernel

/-! ### The ports and the step -/

/-- 95 P0. -/
theorem test_reset_registers :
    State.reset.regRead .id = 0x47430007 ∧ State.reset.regRead .config = 0x0000040C ∧
      State.reset.regRead .status = 0 ∧ State.reset.regRead .ctxState = 0 := by decide
/-- 95 P6: a read of RES_LEN while BUSY = 1. -/
theorem test_host_hazard : faults (step { State.reset with busy := true, script := [.rd .resLen] }) .hostHazard = true := by
  decide
/-- 95 P7: the ENGINE reads bytes that were never written. -/
theorem test_uninit_read :
    faults (step { State.reset with busy := true, cmd := 0x10, srcAddr := 0x200, srcLen := 4, dstCap := 32 }) .uninitRead
      = true := by decide +kernel
/-- 95 P4: OP 0x00. -/
theorem test_illegal_word : gives (step { State.reset with busy := true }) 0x1002 0 0 [] = true := by decide
/-- 70 R305: the write of CMD clears ERR and DONE and sets BUSY. -/
theorem test_issue :
    (after State.reset (step { State.reset with done := true, err := 0x12, script := [.wr .cmd 0x10] })).regRead .status
      = 0x1 := by decide
/-- 20 R63: a write, then a read of the same byte. -/
theorem test_data_port :
    (after State.reset (step { State.reset with mem := [(3, 7)], script := [.mr 3] })).readings = [.byte 3 7] := by decide
/-- 70 R300: reset while a command is in flight. -/
theorem test_reset_event :
    (after State.reset (step { State.reset with busy := true, cmd := 0x10, mem := [(3, 7)], script := [.reset] }))
      = State.reset := by decide
/-- The word that the host places runs in the very next step (log 4). -/
theorem test_placed_word :
    (after State.reset (step (State.reset.withFetchWord 32 0x00001101))).regRead .ctxState = 0x4 := by decide

/-! ### Witnesses: for each obligation with hypotheses, values that meet them, each clause on its own -/

/-- The command of CMD is in flight. -/
def Tests.busy (cmd : Word) (script : List Event) : State := { State.reset with busy := true, cmd := cmd, script := script }

/-- The host is about to do something, with the engine idle. -/
def Tests.idle (script : List Event) : State := { State.reset with script := script }

/-- Slot 0 holds this context, with a source of these bytes and this capacity. -/
def Tests.context (sl : Slot) (m : List Byte) (cap : Word) : State := withSlot sl (sourced m cap)

/-- A live context that has absorbed "ab". -/
def Tests.live : Slot := (Slot.fresh .sha256).update [0x61, 0x62]

/-- A context finalized by CTX_FINAL. -/
def Tests.finished : Slot := { Slot.fresh .rmd160 with lstate := .finalized, digest := Vector.replicate 32 0 }

theorem test_hyp_DecodeOfEncode :
    Instr.wellFormed 4 (.ctxInit 3 .rmd160) = true ∧ Instr.wellFormed 16 (.ctxFinal 15) = true ∧
      Instr.wellFormed 1 (.b58cEnc 255) = true := by decide

theorem test_hyp_DecodedWord : decode 4 0x00002301 = .ok (.ctxInit 3 .rmd160) := rfl

theorem test_hyp_NoWordMatchesTwoRows :
    (rows[(⟨0, by decide⟩ : Fin rows.length)]).selects 0x00002301 = true := by decide

theorem test_hyp_StepRuns :
    ((busy 0x10 []).busy = true ∧ decode 4 (busy 0x10 []).cmd = .ok .sha256 ∧ (busy 0x10 []).script = []) ∧
    (busy 0x10 [.engine, .rd .id]).script = .engine :: [.rd .id] ∧
    ((busy 0x10 [.poll]).script = .poll :: [] ∧ (busy 0x10 [.poll]).done = false) := ⟨⟨rfl, rfl, rfl⟩, rfl, rfl, rfl⟩

theorem test_hyp_IllegalWord :
    ((busy 0x401 []).busy = true ∧ decode 4 (busy 0x401 []).cmd = .error .noSuchSlot ∧ (busy 0x401 []).script = []) ∧
    (busy 0x401 [.engine]).script = .engine :: [] ∧
    ((busy 0x401 [.poll]).script = .poll :: [] ∧ (busy 0x401 [.poll]).done = false) := ⟨⟨rfl, rfl, rfl⟩, rfl, rfl, rfl⟩

theorem test_hyp_IdleEngine :
    ((idle []).busy = false ∧ (idle []).script = []) ∧
    ((idle [.engine]).busy = false ∧ (idle [.engine]).script = .engine :: []) := by decide

theorem test_hyp_Poll :
    ({ idle [.poll] with done := true }.script = .poll :: [] ∧ { idle [.poll] with done := true }.done = true) ∧
    ((idle [.poll]).script = .poll :: [] ∧ (idle [.poll]).done = false ∧ (idle [.poll]).busy = false) := by decide

theorem test_hyp_PlacedWord :
    State.reset.cfg = Config.default ∧ decodeTableWord 32 0x00FF0022 = some (.b58cEnc 255) := by decide

theorem test_hyp_ResetHasTheInvariant :
    (Config.mk 1 8).legal ∧ (Config.mk 16 24).legal ∧ Config.default.legal := by decide

/-- A fresh context keeps the invariant of a slot. -/
theorem test_fresh_slot_inv : (Slot.fresh .rmd160).Inv := by
  constructor <;> decide

/-- A state with a command in flight, an error behind it, a context and a written byte meets the invariant. -/
theorem test_hyp_StepKeepsTheInvariant :
    { context (Slot.fresh .rmd160) [7] 20 with busy := true, cmd := 0x00002001, script := [.poll] }.Inv ∧
      ∃ t, step { context (Slot.fresh .rmd160) [7] 20 with busy := true, cmd := 0x00002001, script := [.poll] }
        = .next t := by
  refine ⟨⟨by decide, by decide, ?_, by decide, by decide, by decide, ⟨.ok, by decide⟩, by decide, by decide, by decide,
    by decide⟩, _, rfl⟩
  intro sl h
  have : sl = Slot.fresh .rmd160 ∨ sl = Slot.reset := by
    have : ({ context (Slot.fresh .rmd160) [7] 20 with busy := true, cmd := 0x00002001, script := [.poll] } : State).slots
      = [Slot.fresh .rmd160, Slot.reset, Slot.reset, Slot.reset] := by decide
    rw [this] at h
    simpa using h
  rcases this with rfl | rfl
  · exact test_fresh_slot_inv
  · constructor <;> decide

theorem test_hyp_NoStepChangesTheParameters :
    (idle [.reset]).slots.length = (idle [.reset]).cfg.numCtx ∧ ∃ t, step (idle [.reset]) = .next t := ⟨rfl, _, rfl⟩

theorem test_hyp_ResetSets :
    (busy 0x10 [.reset, .engine]).cfg.legal ∧ (busy 0x10 [.reset, .engine]).script = .reset :: [.engine] := by decide

theorem test_hyp_CtxState :
    State.reset.slots.length = State.reset.cfg.numCtx ∧ State.reset.cfg.numCtx ≤ 16 ∧ 3 < 16 ∧ 15 < 16 ∧
      State.reset.slots[3]? = some Slot.reset ∧ State.reset.slots[4]? = none ∧
    (idle [.wr .ctxState 5]).busy = false ∧ (idle [.wr .ctxState 5]).script = .wr .ctxState 5 :: [] := by decide

theorem test_hyp_CtxVariant :
    (State.resetOf ⟨16, 24⟩).slots.length = (State.resetOf ⟨16, 24⟩).cfg.numCtx ∧
      (State.resetOf ⟨16, 24⟩).cfg.numCtx ≤ 16 ∧ (State.resetOf ⟨16, 24⟩).slots[15]? = some Slot.reset ∧
    (idle [.wr .ctxVariant 5]).busy = false ∧ (idle [.wr .ctxVariant 5]).script = .wr .ctxVariant 5 :: [] := by decide

theorem test_hyp_CmdWrite :
    (idle [.wr .cmd 0x10, .engine]).busy = false ∧ (idle [.wr .cmd 0x10, .engine]).script = .wr .cmd 0x10 :: [.engine] := by
  decide

theorem test_hyp_OperandWrite :
    Reg.keyLen ∈ [Reg.srcAddr, .srcLen, .dstAddr, .dstCap, .keyAddr, .keyLen] ∧
      (idle [.wr .keyLen 0xFFFFFFFF]).busy = false ∧
      (idle [.wr .keyLen 0xFFFFFFFF]).script = .wr .keyLen 0xFFFFFFFF :: [] := by decide

theorem test_hyp_ReadOnlyWrite :
    Reg.reserved ∈ [Reg.id, .status, .resLen, .resVer, .errInfo, .ctxState, .ctxVariant, .config, .reserved] ∧
      (idle [.wr .reserved 1]).busy = false ∧ (idle [.wr .reserved 1]).script = .wr .reserved 1 :: [] := by decide

theorem test_hyp_RegisterRead :
    (idle [.rd .resLen]).busy = false ∧ (idle [.rd .resLen]).script = .rd .resLen :: [] := by decide

theorem test_hyp_HostHazard :
    (busy 0x10 [.wr .cmd 0]).busy = true ∧ (busy 0x10 [.wr .cmd 0]).script = .wr .cmd 0 :: [] ∧
    ((busy 0x10 [.rd .ctxState]).script = .rd .ctxState :: [] ∧ Reg.ctxState ∉ [Reg.status, .id, .config, .cmd]) ∧
    (busy 0x10 [.mr 0]).script = .mr 0 :: [] ∧ (busy 0x10 [.mw 0 1]).script = .mw 0 1 :: [] ∧
    ((busy 0x10 [.rd .cmd]).script = .rd .cmd :: [] ∧ Reg.cmd ∈ [Reg.status, .id, .config, .cmd]) := by decide

theorem test_hyp_DataPort :
    (idle [.mw 4095 9, .mr 4095]).busy = false ∧ 4095 < 2 ^ (idle [.mw 4095 9, .mr 4095]).cfg.dmemAw ∧
      (idle [.mw 4095 9, .mr 4095]).script = .mw 4095 9 :: .mr 4095 :: [] := by decide

theorem test_hyp_HostReadUnwritten :
    (idle [.mr 4095]).busy = false ∧ 4095 < 2 ^ (idle [.mr 4095]).cfg.dmemAw ∧ (idle [.mr 4095]).mem.read 4095 = none ∧
      (idle [.mr 4095]).script = .mr 4095 :: [] := by decide

theorem test_hyp_AddressBeyond :
    ((idle [.mr 4096]).busy = false ∧ 2 ^ (idle [.mr 4096]).cfg.dmemAw ≤ 4096 ∧ (idle [.mr 4096]).script = .mr 4096 :: []) ∧
    (idle [.mw 4096 0]).script = .mw 4096 0 :: [] := by decide

theorem test_hyp_CtxInit :
    State.reset.slot? 0 = some Slot.reset ∧ State.reset.slot? 3 = some Slot.reset ∧
      (withSlot finished State.reset).slot? 0 = some finished := by decide

theorem test_hyp_CtxUpdate :
    (context (Slot.fresh .sha256) [1] 0).slot? 0 = some (Slot.fresh .sha256) ∧ (Slot.fresh .sha256).lstate = .init ∧
      (context (Slot.fresh .sha256) [1] 0).SourceInside ∧
      (context (Slot.fresh .sha256) [1] 0).sourceBytes = some [1] := by
  refine ⟨by decide, by decide, by unfold State.SourceInside; decide, by decide⟩

/-- Both clauses: the digest just fits, and it is one byte too long. -/
theorem test_hyp_CtxFinal :
    ((context live [] 32).slot? 0 = some live ∧ live.lstate = .absorbing ∧ (context live [] 32).DestInside ∧
      digestLen live.var ≤ (context live [] 32).dstCap.toNat) ∧
    (context live [] 31).slot? 0 = some live ∧ (context live [] 31).DestInside ∧
      (context live [] 31).dstCap.toNat < digestLen live.var := by
  refine ⟨⟨rfl, rfl, by unfold State.DestInside; decide, by decide⟩, rfl, by unfold State.DestInside; decide, by decide⟩

theorem test_hyp_CtxFinalReplays :
    ((context finished [] 20).slot? 0 = some finished ∧ finished.lstate = .finalized ∧ (context finished [] 20).DestInside ∧
      digestLen finished.var ≤ (context finished [] 20).dstCap.toNat) ∧
    (context finished [] 19).slot? 0 = some finished ∧ (context finished [] 19).DestInside ∧
      (context finished [] 19).dstCap.toNat < digestLen finished.var := by
  refine ⟨⟨rfl, rfl, by unfold State.DestInside; decide, by decide⟩, rfl, by unfold State.DestInside; decide, by decide⟩

theorem test_hyp_WrongLifecycle :
    (State.reset.slot? 0 = some Slot.reset ∧ Slot.reset.lstate = .empty) ∧
    ((withSlot finished State.reset).slot? 0 = some finished ∧ finished.lstate = .finalized) := by decide

theorem test_hyp_MissingSlot :
    State.reset.cfg.numCtx ≤ (4 : BitVec 4).toNat ∧ State.reset.cfg.numCtx ≤ (15 : BitVec 4).toNat := by decide

theorem test_hyp_OneShot :
    (Instr.sha224, Variant.sha224) ∈ [(Instr.sha256, Variant.sha256), (.sha224, .sha224), (.rmd160, .rmd160)] ∧
      ((sourced abc 28).SourceInside ∧ (sourced abc 28).DestInside ∧ (sourced abc 28).sourceBytes = some abc ∧
        digestLen .sha224 ≤ (sourced abc 28).dstCap.toNat) ∧
      ((sourced abc 27).DestInside ∧ (sourced abc 27).dstCap.toNat < digestLen .sha224) := by
  refine ⟨by decide, ⟨by unfold State.SourceInside; decide, by unfold State.DestInside; decide, by decide, by decide⟩,
    by unfold State.DestInside; decide, by decide⟩

/-- A key of 64 bytes is used as it is, a key of 65 is hashed; the MAC fits, or is one byte too long. -/
theorem test_hyp_Hmac :
    ((keyed (List.replicate 64 1) abc 32).KeyInside ∧ (keyed (List.replicate 64 1) abc 32).SourceInside ∧
      (keyed (List.replicate 64 1) abc 32).DestInside ∧
      (keyed (List.replicate 64 1) abc 32).keyBytes = some (List.replicate 64 1) ∧
      (keyed (List.replicate 64 1) abc 32).sourceBytes = some abc ∧
      digestLen .sha256 ≤ (keyed (List.replicate 64 1) abc 32).dstCap.toNat) ∧
    ((keyed (List.replicate 65 1) abc 31).KeyInside ∧
      (keyed (List.replicate 65 1) abc 31).keyBytes = some (List.replicate 65 1) ∧
      (keyed (List.replicate 65 1) abc 31).dstCap.toNat < digestLen .sha256) := by
  refine ⟨⟨?_, ?_, ?_, by decide +kernel, by decide +kernel, by decide⟩, ?_, by decide +kernel, by decide⟩
  · unfold State.KeyInside; decide
  · unfold State.SourceInside; decide +kernel
  · unfold State.DestInside; decide +kernel
  · unfold State.KeyInside; decide +kernel

theorem test_hyp_Base58Encoders :
    ((sourced [0x61] 2).SourceInside ∧ (sourced [0x61] 2).DestInside ∧ (sourced [0x61] 2).sourceBytes = some [0x61] ∧
      (b58Encode [0x61]).length ≤ (sourced [0x61] 2).dstCap.toNat) ∧
    (sourced [0x61] 1).dstCap.toNat < (b58Encode [0x61]).length := by
  refine ⟨⟨by unfold State.SourceInside; decide, by unfold State.DestInside; decide, by decide, by decide +kernel⟩,
    by decide +kernel⟩

/-- "11" decodes to two zero bytes: they fit, or the capacity is one byte short. -/
theorem test_hyp_Base58Decode :
    ((sourced [0x31, 0x31] 2).SourceInside ∧ (sourced [0x31, 0x31] 2).DestInside ∧
      (sourced [0x31, 0x31] 2).sourceBytes = some [0x31, 0x31] ∧ (∀ ch ∈ ([0x31, 0x31] : List Byte), ch ∈ alphabet) ∧
      leading zeroChar [0x31, 0x31] + 0 ≤ (sourced [0x31, 0x31] 2).dstCap.toNat) ∧
    (sourced [0x31, 0x31] 1).dstCap.toNat < leading zeroChar [0x31, 0x31] + 0 := by
  refine ⟨⟨by unfold State.SourceInside; decide, by unfold State.DestInside; decide, by decide, by decide +kernel,
    by decide⟩, by decide⟩

theorem test_hyp_FirstInvalid :
    (sourced [0x31, 0x49, 0x30] 0).cfg.legal ∧ (sourced [0x31, 0x49, 0x30] 0).SourceInside ∧
      (sourced [0x31, 0x49, 0x30] 0).DestInside ∧
      (sourced [0x31, 0x49, 0x30] 0).sourceBytes = some [0x31, 0x49, 0x30] ∧ (0x49 : Byte) ∉ alphabet ∧
      (0x31 : Byte) ∈ alphabet := by
  refine ⟨by decide, by unfold State.SourceInside; decide, by unfold State.DestInside; decide, by decide, by decide +kernel,
    by decide +kernel⟩

/-- 95 L2.6 B5-10, B5-12 and B5-2d: too short; five bytes with a wrong checksum; an empty payload that fits. -/
theorem test_hyp_Base58CheckDecode :
    (b58Decode [0x31] = .ok [0] ∧ ([0] : List Byte).length < 5) ∧
    (b58Decode (List.replicate 5 0x31) = .ok (0 :: [] ++ [0, 0, 0, 0]) ∧
      ([0, 0, 0, 0] : List Byte) ≠ (digest .sha256 (digest .sha256 [0])).take 4) ∧
    (b58Decode (bytes 6 0x315768346268) = .ok (0 :: [] ++ [0x14, 0x06, 0xe0, 0x58]) ∧
      ([0x14, 0x06, 0xe0, 0x58] : List Byte) = (digest .sha256 (digest .sha256 [0])).take 4) := by
  refine ⟨⟨by rfl, by decide⟩, ⟨by rfl, by decide +kernel⟩, by rfl, by decide +kernel⟩

/-- The address has 34 characters: it fits, or the capacity is one short. -/
theorem test_hyp_Derive :
    (Net.main, (0 : Byte)) ∈ [(Net.main, (0 : Byte)), (Net.test, 111)] ∧ (sourced pubkey 34).SourceInside ∧
      (sourced pubkey 34).DestInside ∧ (sourced pubkey 34).srcLen = 33 ∧
      (sourced pubkey 34).sourceBytes = some pubkey ∧ p2pkhAddress.length ≤ (sourced pubkey 34).dstCap.toNat ∧
      (sourced pubkey 33).dstCap.toNat < p2pkhAddress.length := by
  refine ⟨by decide, by unfold State.SourceInside; decide, by unfold State.DestInside; decide, by decide,
    by decide +kernel, by decide, by decide⟩

theorem test_hyp_WrongKeyLength :
    (sourced [] 0).SourceInside ∧ (sourced [] 0).DestInside ∧ (sourced [] 0).srcLen ≠ 33 := by
  refine ⟨by unfold State.SourceInside; decide, by unfold State.DestInside; decide, by decide⟩

theorem test_hyp_Wrap :
    (sourced p2pkhAddress 34).SourceInside ∧ (sourced p2pkhAddress 34).DestInside ∧
      (sourced p2pkhAddress 34).sourceBytes = some p2pkhAddress ∧
      b58CheckDecode p2pkhAddress = .ok (0, bytes 20 0xf54a5851e9372b87810a8e60cdd2e7cfd80b6e31) ∧
      p2shAddress.length ≤ (sourced p2pkhAddress 34).dstCap.toNat ∧
      (sourced p2pkhAddress 33).dstCap.toNat < p2shAddress.length := by
  refine ⟨by unfold State.SourceInside; decide, by unfold State.DestInside; decide, by decide +kernel, by decide +kernel,
    by decide, by decide⟩

/-- The empty string is no address (95 L2.7 W11). -/
theorem test_hyp_InvalidAddress :
    (sourced [] 0).SourceInside ∧ (sourced [] 0).DestInside ∧ (sourced [] 0).sourceBytes = some [] ∧
      ¬ (∃ (ver : Byte) (h : List Byte), b58CheckDecode [] = .ok (ver, h) ∧ h.length = 20 ∧ (ver = 0 ∨ ver = 111)) := by
  refine ⟨by unfold State.SourceInside; decide, by unfold State.DestInside; decide, by decide, ?_⟩
  rintro ⟨ver, h, he, -⟩
  cases he

/-- One byte past the end of DMEM, for the key, the source and the destination. -/
theorem test_hyp_Region :
    (stateCheckPasses (.hmac .sha256) { State.reset with keyAddr := 0x1000, keyLen := 1 } ∧
      ¬ { State.reset with keyAddr := 0x1000, keyLen := 1 }.KeyInside) ∧
    (stateCheckPasses (.ctxUpdate 0) { withSlot (Slot.fresh .sha256) State.reset with srcAddr := 0x1001 } ∧
      ¬ { withSlot (Slot.fresh .sha256) State.reset with srcAddr := 0x1001 }.SourceInside) ∧
    (stateCheckPasses .sha256 { State.reset with dstAddr := 0xFFF, dstCap := 2 } ∧
      ¬ { State.reset with dstAddr := 0xFFF, dstCap := 2 }.DestInside) := by
  refine ⟨⟨trivial, by unfold State.KeyInside; decide⟩, ⟨⟨Slot.fresh .sha256, by decide, .inl rfl⟩, ?_⟩, trivial, ?_⟩
  · unfold State.SourceInside; decide
  · unfold State.DestInside; decide

/-- The command of program P7 faults, and one with no source byte does not. -/
theorem test_hyp_CommandFaults :
    exec .sha256 { State.reset with srcLen := 1 } = .fault .uninitRead ∧ ∃ t, exec .sha256 State.reset = .next t :=
  ⟨rfl, _, rfl⟩

/-- The premise of CommandsLeaveTheOperandRegisters, CommandsStoreOnlyTheOutput, StoredOutputIsReadable,
CommandsReportOnlyTheirCodes and CommandsLeaveOtherSlots: a command that ends with a next state, one of each shape. -/
theorem test_hyp_Commands :
    (∃ t, exec (.ctxInit 0 .sha256) State.reset = .next t ∧ namedSlot (.ctxInit 0 .sha256) = some 0) ∧
    (∃ t, exec (.ctxUpdate 0) (context (Slot.fresh .sha256) [1] 0) = .next t ∧ usesDest (.ctxUpdate 0) = false) ∧
    (∃ t, exec (.ctxFinal 0) (context finished [] 20) = .next t ∧ t.resLen.toNat = 20) ∧
    (∃ t, exec .b58Enc (sourced [0] 1) = .next t ∧ t.resLen.toNat = 1 ∧ namedSlot .b58Enc = none) := by
  refine ⟨⟨_, rfl, rfl⟩, ⟨_, rfl, rfl⟩, ⟨_, rfl, by decide⟩, ⟨_, rfl, by decide +kernel, rfl⟩⟩

theorem test_hyp_FailingCommand :
    ∃ t, exec (.ctxFinal 0) State.reset = .next t ∧ t.err ≠ 0x00 := ⟨_, rfl, by decide⟩

/-- One other engine whose other slots differ, for a command that names a slot and for one that names none. -/
theorem test_hyp_CommandsObserve :
    ((∀ c, namedSlot (.ctxInit 0 .sha256) = some c →
        ([Slot.reset, finished] : List Slot)[c.toNat]? = State.reset.slots[c.toNat]?) ∧
      ∃ t, exec (.ctxInit 0 .sha256) State.reset = .next t) ∧
    ((∀ c, namedSlot .sha256 = some c → ([] : List Slot)[c.toNat]? = State.reset.slots[c.toNat]?) ∧
      exec .sha256 { State.reset with srcLen := 1 } = .fault .uninitRead) := by
  refine ⟨⟨?_, _, rfl⟩, ?_, rfl⟩
  · intro c h; cases h; decide
  · intro c h; cases h

/-- A step that moves slot 0 from FINALIZED to INIT, and one that leaves it. -/
theorem test_hyp_Lifecycle :
    (∃ t b, step { withSlot finished State.reset with busy := true, cmd := 0x00000001 } = .next t ∧
      { withSlot finished State.reset with busy := true, cmd := 0x00000001 }.script.head? ≠ some .reset ∧
      { withSlot finished State.reset with busy := true, cmd := 0x00000001 }.slots[0]? = some finished ∧
      t.slots[0]? = some b ∧ b.lstate = .init) ∧
    (∃ t, step (withSlot finished State.reset) = .next t ∧ t.slots[0]? = some finished) :=
  ⟨⟨_, _, rfl, by decide, by decide, rfl, rfl⟩, _, rfl, by decide⟩

theorem test_hyp_Finalized :
    ∃ t, step { withSlot finished State.reset with busy := true, cmd := 0x00000101 } = .next t ∧
      { withSlot finished State.reset with busy := true, cmd := 0x00000101 }.script.head? ≠ some .reset ∧
      { withSlot finished State.reset with busy := true, cmd := 0x00000101 }.slots[0]? = some finished ∧
      finished.lstate = .finalized ∧ decode 4 0x00000101 = .ok (.ctxInit 1 .sha256) :=
  ⟨_, rfl, by decide, by decide, rfl, rfl⟩

theorem test_hyp_Padding :
    (0 : BitVec 64).toNat % 64 ≤ 55 ∧ (55 : BitVec 64).toNat % 64 ≤ 55 ∧ 56 ≤ (56 : BitVec 64).toNat % 64 ∧
      56 ≤ (63 : BitVec 64).toNat % 64 := by decide

/-- For StreamedDigestIsTheOneShotDigest and LiveContextHoldsTheFullBlocks: a stream of two pieces, and the state in which it is finalized. -/
theorem test_hyp_Streamed :
    ∃ t0 last, exec (.ctxInit 0 .sha256) State.reset = .next t0 ∧ t0.slot? 0 = some (Slot.fresh .sha256) ∧
      Streamed 0 (Slot.fresh .sha256) [[0x61, 0x62], [0x63]] last ∧ (context last [] 32).slot? 0 = some last ∧
      (context last [] 32).DestInside ∧ digestLen .sha256 ≤ (context last [] 32).dstCap.toNat := by
  refine ⟨_, ((Slot.fresh .sha256).update [0x61, 0x62]).update [0x63], rfl, rfl, ?_, rfl, ?_, by decide⟩
  · refine .cons (s := context (Slot.fresh .sha256) [0x61, 0x62] 0) (mid := live) rfl (by decide) rfl rfl rfl ?_
    exact .cons (s := context live [0x63] 0) rfl (by decide +kernel) rfl rfl rfl (.nil _)
  · unfold State.DestInside; decide +kernel

theorem test_hyp_Base58Laws : ∀ ch ∈ ([0x31, 0x7a] : List Byte), ch ∈ alphabet := by decide +kernel
end

section
/-! The parameters of the engine and the number of its context slots through a command, the ENGINE's step and every other
step (00 R9, 10 R20, R40). -/

namespace Sys2Proof.Machine

/-- Only the three context commands write a slot, and each replaces one that is there. -/
theorem exec_cfg_and_slotCount {i : Instr} {s t : State} (h : exec i s = .next t) :
    t.cfg = s.cfg ∧ t.slots.length = s.slots.length := by
  have hend : CommandEnd i s (.next t) := h ▸ exec_end i s
  cases hend with
  | failed code info => exact ⟨rfl, rfl⟩
  | stored out ver => exact ⟨rfl, rfl⟩
  | created c v => exact ⟨rfl, List.length_set⟩
  | updated c sl m => exact ⟨rfl, List.length_set⟩
  | finalized c sl => exact ⟨rfl, List.length_set⟩

/-- An illegal word completes without touching a slot; a legal one is a command. -/
theorem runCommand_cfg_and_slotCount {s t : State} (h : runCommand s = .next t) :
    t.cfg = s.cfg ∧ t.slots.length = s.slots.length := by
  obtain ⟨-, -, rfl⟩ | ⟨i, -, hexec⟩ := runCommand_cases h
  · exact ⟨rfl, rfl⟩
  · exact exec_cfg_and_slotCount hexec

/-- Settles O13, by the cases of a step. Only reset makes new slots, NUM_CTX of them (70 R300), and there the premise on
the number of slots is used. -/
theorem noStepChangesTheParameters : Obligations.NoStepChangesTheParameters := by
  unfold Obligations.NoStepChangesTheParameters
  intro s t hslots hstep
  obtain ⟨-, later, hrun⟩ | ⟨later, -, rfl⟩ | ⟨hsame, hcfg⟩ := step_cases hstep
  · exact runCommand_cfg_and_slotCount (s := { s with script := later }) hrun
  · exact ⟨rfl, by simp [hslots]⟩
  · exact ⟨hcfg, congrArg List.length hsame⟩

end Sys2Proof.Machine
end

section
/-! The invariant of a context slot (10 R40 to R47) through reset, CTX_INIT, CTX_UPDATE and CTX_FINAL. -/

namespace Sys2Proof.Machine

/-- A slot after reset meets the invariant. -/
theorem Slot.inv_reset : Slot.reset.Inv where
  emptyIsReset _ := rfl
  initIsFresh h := nomatch h
  bufferCount _ := rfl
  rmdWords h := nomatch h
  noEarlyDigest _ := rfl
  finalizedShape h := nomatch h

/-- A context that CTX_INIT creates meets the invariant. -/
theorem Slot.inv_fresh (v : Variant) : (Slot.fresh v).Inv where
  emptyIsReset h := nomatch h
  initIsFresh _ := rfl
  bufferCount _ := rfl
  rmdWords h := by
    obtain rfl : v = .rmd160 := h
    exact ⟨rfl, rfl, rfl⟩
  noEarlyDigest _ := rfl
  finalizedShape h := nomatch h

/-- A byte absorbed into a RIPEMD-160 context leaves H[5..7] alone (10 R43). -/
theorem Slot.absorbByte_rmdWords (sl : Slot) (b : Byte) (h : sl.var = .rmd160) :
    (sl.absorbByte b).h.h5 = sl.h.h5 ∧ (sl.absorbByte b).h.h6 = sl.h.h6 ∧ (sl.absorbByte b).h.h7 = sl.h.h7 := by
  unfold Slot.absorbByte
  dsimp only
  split
  · rw [h]; exact compress_rmd160_high _ _
  · exact ⟨rfl, rfl, rfl⟩

/-- So does a byte string (10 R43). -/
theorem Slot.absorb_rmdWords (sl : Slot) (m : List Byte) (h : sl.var = .rmd160) :
    (sl.absorb m).h.h5 = sl.h.h5 ∧ (sl.absorb m).h.h6 = sl.h.h6 ∧ (sl.absorb m).h.h7 = sl.h.h7 := by
  induction m generalizing sl with
  | nil => exact ⟨rfl, rfl, rfl⟩
  | cons b m ih =>
    obtain ⟨h5, h6, h7⟩ := sl.absorbByte_rmdWords b h
    simpa [h5, h6, h7] using ih (sl.absorbByte b) (by simpa using h)

/-- Absorbing keeps the zero words of a RIPEMD-160 slot that meets the invariant. -/
theorem Slot.Inv.rmdWords_absorb {sl : Slot} (h : sl.Inv) (m : List Byte) (hv : sl.var = .rmd160) :
    (sl.absorb m).h.h5 = 0 ∧ (sl.absorb m).h.h6 = 0 ∧ (sl.absorb m).h.h7 = 0 := by
  obtain ⟨h5, h6, h7⟩ := sl.absorb_rmdWords m hv
  obtain ⟨z5, z6, z7⟩ := h.rmdWords hv
  exact ⟨h5.trans z5, h6.trans z6, h7.trans z7⟩

/-- CTX_UPDATE of a live slot keeps the invariant: BUFLEN and TOTAL both count the source's bytes. -/
theorem Slot.Inv.update {sl : Slot} (h : sl.Inv) (live : sl.lstate = .init ∨ sl.lstate = .absorbing)
    (m : List Byte) : (sl.update m).Inv where
  emptyIsReset he := nomatch he
  initIsFresh he := nomatch he
  bufferCount _ := by
    have hcount := h.bufferCount live
    simp only [Slot.update, Slot.absorb_buflen, BitVec.toNat_add, BitVec.toNat_ofNat]
    omega
  rmdWords hv := h.rmdWords_absorb m (by simpa [Slot.update] using hv)
  noEarlyDigest _ := by
    have hd := h.noEarlyDigest (by rcases live with hl | hl <;> simp [hl])
    simpa [Slot.update] using hd
  finalizedShape he := nomatch he

/-- The padding of a live slot's TOTAL fills its last block (40 R129, 42 R205). -/
theorem Slot.Inv.buflen_finalize {sl : Slot} (h : sl.Inv) (live : sl.lstate = .init ∨ sl.lstate = .absorbing) :
    sl.finalize.buflen = 0 := by
  have hcount := h.bufferCount live
  apply Fin.ext
  simp only [Slot.finalize, Slot.absorb_buflen, length_padding, padZeros, Fin.val_zero]
  omega

/-- CTX_FINAL of a live slot keeps the invariant. -/
theorem Slot.Inv.finalize {sl : Slot} (h : sl.Inv) (live : sl.lstate = .init ∨ sl.lstate = .absorbing) :
    sl.finalize.Inv where
  emptyIsReset he := nomatch he
  initIsFresh he := nomatch he
  bufferCount he := by rcases he with he | he <;> cases he
  rmdWords hv := h.rmdWords_absorb _ (by simpa [Slot.finalize] using hv)
  noEarlyDigest he := absurd rfl he
  finalizedShape _ := by
    refine ⟨h.buflen_finalize live, ?_⟩
    have hdrop := drop_latch (digestOut sl.var (sl.absorb (padding sl.var sl.total)).h)
    simpa [Slot.finalize] using hdrop

end Sys2Proof.Machine
end

section
/-! The invariant of a state (10 R26, R33 to R35, R40, 20 R61) through each update of the state. -/

namespace Sys2Proof.Machine

/-- The invariant speaks neither of CMD nor of the operand registers, the pending events and the readings. -/
theorem State.Inv.of_same_rest {s t : State} (h : s.Inv)
    (same : t = { s with
      cmd := t.cmd, srcAddr := t.srcAddr, srcLen := t.srcLen, dstAddr := t.dstAddr, dstCap := t.dstCap,
      keyAddr := t.keyAddr, keyLen := t.keyLen, script := t.script, readings := t.readings }) : t.Inv := by
  rw [same]
  exact ⟨h.cfgLegal, h.slotCount, h.slotsOk, h.memWf, h.memInside, h.notBusyAndDone, h.errIsStatus, h.errClear,
    h.failureIsEmpty, h.infoOnlyForCharacter, h.resLenInDmem⟩

/-- Slots that meet the invariant, as many as there were, keep the state's. -/
theorem State.Inv.setSlot {s : State} (h : s.Inv) (c : BitVec 4) {new : Slot} (hnew : new.Inv) :
    (s.setSlot c new).Inv :=
  { h with
    slotCount := List.length_set.trans h.slotCount
    slotsOk := fun sl hsl => by
      rcases List.mem_or_eq_of_mem_set hsl with hold | rfl
      · exact h.slotsOk sl hold
      · exact hnew }

/-- A memory in canonical form and below DMEM_SIZE keeps the state's invariant. -/
theorem State.Inv.withMem {s : State} (h : s.Inv) {m : Memory} (hwf : Memory.wf m)
    (hin : ∀ x ∈ m, x.1 < s.cfg.dmemSize) : State.Inv { s with mem := m } :=
  { h with memWf := hwf, memInside := hin }

/-- A store of an output inside DMEM keeps the invariant. -/
theorem State.Inv.store {s : State} (h : s.Inv) {out : List Byte}
    (hin : s.dstAddr.toNat + out.length ≤ s.cfg.dmemSize) : (s.store out).Inv :=
  h.withMem (Memory.wf_writeBytes h.memWf _ _) (Memory.inside_writeBytes h.memInside _ _ hin)

/-- The host's write of a byte inside DMEM keeps the invariant. -/
theorem State.Inv.memWrite {s : State} (h : s.Inv) {a : Nat} (b : Byte) (hin : a < s.cfg.dmemSize) :
    State.Inv { s with mem := s.mem.write a b } :=
  h.withMem (Memory.wf_write h.memWf a b) fun x hx => by
    rcases Memory.mem_write hx with rfl | hold
    · exact hin
    · exact h.memInside x hold

/-- The issue of a command keeps the invariant: ERR is 0 with DONE (70 R305). -/
theorem State.Inv.issue {s : State} (h : s.Inv) (w : Word) : (s.issue w).Inv :=
  { h with
    notBusyAndDone := by simp
    errIsStatus := ⟨.ok, rfl⟩
    errClear := fun _ => rfl
    failureIsEmpty := fun hd => nomatch hd
    infoOnlyForCharacter := fun hd => nomatch hd }

/-- A failure keeps the invariant when it leaves ERR_INFO = 0 but for INVALID_CHARACTER (60 R273, 10 R35). -/
theorem State.Inv.fail {s : State} (h : s.Inv) {code : Status} {info : Word}
    (hinfo : code ≠ .invalidCharacter → info = 0) : (s.fail code info).Inv :=
  { h with
    notBusyAndDone := by simp
    errIsStatus := ⟨code, rfl⟩
    errClear := fun hd => nomatch hd
    failureIsEmpty := fun _ _ => ⟨rfl, rfl⟩
    infoOnlyForCharacter := fun _ he => hinfo fun hc => he (congrArg statusCode hc)
    resLenInDmem := Nat.zero_le _ }

/-- A completion with status OK keeps the invariant when RES_LEN is the length of something in DMEM (60 R274). -/
theorem State.Inv.completeOk {s : State} (h : s.Inv) {n : Word} (hn : n.toNat ≤ s.cfg.dmemSize) (ver : Byte) :
    (s.complete .ok 0 n ver).Inv :=
  { h with
    notBusyAndDone := by simp
    errIsStatus := ⟨.ok, rfl⟩
    errClear := fun _ => rfl
    failureIsEmpty := fun _ he => absurd rfl he
    infoOnlyForCharacter := fun _ _ => rfl
    resLenInDmem := hn }

/-- The state after reset meets the invariant, for legal parameters (70 R300, R301). -/
theorem State.inv_resetOf {cfg : Config} (h : cfg.legal) : (State.resetOf cfg).Inv where
  cfgLegal := h
  slotCount := List.length_replicate
  slotsOk sl hsl := List.eq_of_mem_replicate hsl ▸ Slot.inv_reset
  memWf := List.Pairwise.nil
  memInside _ hx := nomatch hx
  notBusyAndDone := by simp [State.resetOf]
  errIsStatus := ⟨.ok, rfl⟩
  errClear _ := rfl
  failureIsEmpty hd := nomatch hd
  infoOnlyForCharacter hd := nomatch hd
  resLenInDmem := Nat.zero_le _

/-- Reset, whatever was in flight, keeps the invariant. -/
theorem State.Inv.afterReset {s : State} (h : s.Inv) : s.afterReset.Inv :=
  (State.inv_resetOf h.cfgLegal).of_same_rest rfl

/-- A host write of any register keeps the invariant: it issues a command, stores an operand register, or is ignored. -/
theorem State.Inv.regWrite {s : State} (h : s.Inv) (r : Reg) (v : Word) : (s.regWrite r v).Inv := by
  cases r with
  | cmd => exact h.issue v
  | srcAddr | srcLen | dstAddr | dstCap | keyAddr | keyLen => exact h.of_same_rest rfl
  | id | status | resLen | resVer | errInfo | ctxState | ctxVariant | config | reserved => exact h

/-- Storing and completing keeps the invariant: the output fits in its destination, which lies in DMEM (20 R70, R73). -/
theorem State.Inv.storeOk {s : State} (h : s.Inv) (inside : s.DestInside) {out : List Byte}
    (fits : out.length ≤ s.dstCap.toNat) (ver : Byte) :
    ((s.store out).complete .ok 0 (BitVec.ofNat 32 out.length) ver).Inv := by
  have hin : s.dstAddr.toNat + out.length ≤ s.cfg.dmemSize :=
    (Nat.add_le_add_left fits _).trans inside
  exact (h.store hin).completeOk ((toNat_ofNat_of_fits fits).trans_le (by simp only [State.store_cfg]; omega)) ver

end Sys2Proof.Machine
end

section
/-! Every step in full: what `step_cases` says of the slots and parameters, said of the whole state, and from it that
every step keeps the invariant. -/

namespace Sys2Proof.Machine

/-- Everything a step can do that gives a next state, with `later` what is then left of the schedule. -/
inductive StepEnd (s : State) : State → Prop
  /-- The ENGINE runs the command in CMD. -/
  | ran (later : List Event) {t : State} (busy : s.busy = true) (run : runCommand { s with script := later } = .next t) :
      StepEnd s t
  /-- The ENGINE is idle. -/
  | idle (later : List Event) : StepEnd s { s with script := later }
  /-- Reset. -/
  | reset (later : List Event) : StepEnd s { s with script := later }.afterReset
  /-- The host writes a register. -/
  | wrote (later : List Event) (r : Reg) (v : Word) : StepEnd s ({ s with script := later }.regWrite r v)
  /-- The host reads a register or a byte, or its POLL ends. -/
  | read (later : List Event) (x : Reading) : StepEnd s ({ s with script := later }.record x)
  /-- The host writes a byte inside DMEM. -/
  | stored (later : List Event) (a : Nat) (b : Byte) (inside : a < s.cfg.dmemSize) :
      StepEnd s { s with script := later, mem := s.mem.write a b }

/-- The ENGINE's turn: it runs the command in CMD or is idle. -/
theorem engineStep_end {s t : State} (later : List Event) (h : engineStep { s with script := later } = .next t) :
    StepEnd s t := by
  unfold engineStep at h
  split at h
  · next busy => exact .ran later busy h
  · cases h; exact .idle later

/-- What each event of the schedule does. -/
theorem runEvent_end {s t : State} {e : Event} {later : List Event} (h : runEvent e later s = .next t) :
    StepEnd s t := by
  cases e with
  | engine => exact engineStep_end later h
  | reset => cases h; exact .reset later
  | wr r v =>
    simp only [runEvent, hostWrite] at h
    split at h <;> cases h
    exact .wrote later r v
  | rd r =>
    simp only [runEvent, hostRead] at h
    split at h <;> cases h
    exact .read later _
  | mw a b =>
    simp only [runEvent, hostMemWrite] at h
    split at h
    · cases h
    · split at h <;> cases h
      exact .stored later a b (Nat.lt_of_not_le ‹_›)
  | mr a =>
    simp only [runEvent, hostMemRead] at h
    split at h
    · cases h
    · split at h
      · cases h
      · split at h <;> cases h
        exact .read later _
  | poll =>
    simp only [runEvent, hostPoll] at h
    split at h
    · cases h; exact .read later _
    · exact engineStep_end s.script h

/-- Every step that gives a next state is one of the steps of `StepEnd`. -/
theorem step_end {s t : State} (h : step s = .next t) : StepEnd s t := by
  unfold step runStep at h
  split at h
  · exact engineStep_end s.script h
  · exact runEvent_end h

/-- Every command keeps the invariant, however it ends. -/
theorem State.Inv.of_exec {s t : State} {i : Instr} (h : s.Inv) (hexec : exec i s = .next t) : t.Inv := by
  have hend : CommandEnd i s (.next t) := hexec ▸ exec_end i s
  cases hend with
  | failed code info listed noInfo => exact h.fail noInfo
  | stored out ver hasDest fits inside => exact h.storeOk inside fits ver
  | created c v => exact (h.setSlot c (Slot.inv_fresh v)).completeOk (Nat.zero_le _) 0
  | updated c sl m named which live =>
    have hsl : sl.Inv := h.slotsOk sl (State.slot?_mem named)
    exact (h.setSlot c (hsl.update live m)).completeOk (Nat.zero_le _) 0
  | finalized c sl named which live fits inside =>
    have hsl : sl.Inv := h.slotsOk sl (State.slot?_mem named)
    have hlen := sl.length_digestBytes_finalize
    rw [← hlen]
    exact (h.setSlot c (hsl.finalize live)).storeOk inside (hlen.trans_le fits) 0

/-- The ENGINE's command keeps the invariant, whether or not CMD is legal. -/
theorem State.Inv.of_runCommand {s t : State} (h : s.Inv) (hrun : runCommand s = .next t) : t.Inv := by
  obtain ⟨-, -, rfl⟩ | ⟨i, -, hexec⟩ := runCommand_cases hrun
  · exact h.fail fun _ => rfl
  · exact h.of_exec hexec

/-- Settles O12, by the cases of a step: each update of the state keeps the invariant. -/
theorem stepKeepsTheInvariant : Obligations.StepKeepsTheInvariant := by
  unfold Obligations.StepKeepsTheInvariant
  intro s t h hstep
  have withScript (later : List Event) : State.Inv { s with script := later } := h.of_same_rest rfl
  cases step_end hstep with
  | ran later busy run => exact (withScript later).of_runCommand run
  | idle later => exact withScript later
  | reset later => exact (withScript later).afterReset
  | wrote later r v => exact (withScript later).regWrite r v
  | read later x => exact h.of_same_rest rfl
  | stored later a b inside => exact (withScript later).memWrite b inside

end Sys2Proof.Machine
end

section
/-! Commands: what each leaves of the registers and of the other slots, and the codes it reports (10 R22, R48, 60 R270 to
R272); all from `exec_end`. -/

namespace Sys2Proof.Machine

/-- Settles O45: no end of a command touches these fields but for BUSY and DONE, which each sets. -/
theorem commandsLeaveTheOperandRegisters : Obligations.CommandsLeaveTheOperandRegisters := by
  unfold Obligations.CommandsLeaveTheOperandRegisters
  intro i s t h
  have hend : CommandEnd i s (.next t) := h ▸ exec_end i s
  cases hend <;> simp

/-- Every command can end with status OK. -/
theorem ok_mem_reportable (i : Instr) : statusCode .ok ∈ reportable i := by
  cases i <;> exact List.mem_cons_self

/-- Settles O49: a failure reports a listed code, and every other end reports OK with ERR_INFO = 0. -/
theorem commandsReportOnlyTheirCodes : Obligations.CommandsReportOnlyTheirCodes := by
  unfold Obligations.CommandsReportOnlyTheirCodes
  intro i s t h
  have hend : CommandEnd i s (.next t) := h ▸ exec_end i s
  cases hend with
  | failed code info listed noInfo => exact ⟨listed, fun hne => noInfo fun hc => hne (congrArg statusCode hc)⟩
  | stored | created | updated | finalized => exact ⟨ok_mem_reportable i, fun _ => rfl⟩

/-- Settles O50: the one slot a command replaces is the one it names. -/
theorem commandsLeaveOtherSlots : Obligations.CommandsLeaveOtherSlots := by
  unfold Obligations.CommandsLeaveOtherSlots
  intro i s t d h hother
  have hend : CommandEnd i s (.next t) := h ▸ exec_end i s
  cases hend with
  | failed | stored => rfl
  | created c v sl named which | updated c sl m named which | finalized c sl named which =>
    subst which
    exact List.getElem?_set_ne (hother c rfl)

end Sys2Proof.Machine
end

section
/-! Commands: what they observe of the slots (10 R48). Two runs that differ in the slots alone are compared operation by
operation. -/

namespace Sys2Proof.Machine

/-- Two outcomes that are the same but for the slots that are not named. -/
inductive SameButSlots (named : Option (BitVec 4)) :
    Host.Outcome State Fault Refusal → Host.Outcome State Fault Refusal → Prop
  | fault (f : Fault) : SameButSlots named (.fault f) (.fault f)
  | next (t : State) (slots : List Slot) (agree : ∀ c, named = some c → slots[c.toNat]? = t.slots[c.toNat]?) :
      SameButSlots named (.next t) (.next { t with slots := slots })

section
variable {named : Option (BitVec 4)}

/-- A check that does not look at the slots. -/
theorem SameButSlots.ite {p : Prop} [Decidable p] {a a' b b' : Host.Outcome State Fault Refusal}
    (ha : SameButSlots named a a') (hb : SameButSlots named b b') :
    SameButSlots named (if p then a else b) (if p then a' else b') := by
  split
  · exact ha
  · exact hb

/-- Reading an operand. -/
theorem SameButSlots.withBytes (operand : Option (List Byte))
    {k k' : List Byte → Host.Outcome State Fault Refusal} (h : ∀ m, SameButSlots named (k m) (k' m)) :
    SameButSlots named (withBytes operand k) (withBytes operand k') := by
  cases operand with
  | none => exact .fault _
  | some m => exact h m

variable {s : State} {others : List Slot} (agree : ∀ c, named = some c → others[c.toNat]? = s.slots[c.toNat]?)
include agree

/-- A failure leaves the slots as they were. -/
theorem sameButSlots_fail (code : Status) (info : Word) :
    SameButSlots named (.next (s.fail code info)) (.next (State.fail { s with slots := others } code info)) :=
  .next _ others agree

/-- A success writes no slot either. -/
theorem sameButSlots_succeed (out : List Byte) (ver : Byte) :
    SameButSlots named (.next (s.succeed out ver)) (.next (State.succeed { s with slots := others } out ver)) := by
  rcases s.succeed_cases out ver with ⟨hf, e⟩ | ⟨hf, e⟩
  · rw [e, State.succeed_of_overflow (s := { s with slots := others }) hf]
    exact sameButSlots_fail agree _ _
  · rw [e, State.succeed_of_fits (s := { s with slots := others }) hf]
    exact .next _ others agree

/-- The end of a computation. -/
theorem sameButSlots_finish (r : CmdResult) :
    SameButSlots named (.next (s.finish r)) (.next (State.finish { s with slots := others } r)) := by
  cases r with
  | ok out ver => exact sameButSlots_succeed agree out ver
  | error code info => exact sameButSlots_fail agree code info

/-- The one-shot shape. -/
theorem sameButSlots_oneShot (f : List Byte → CmdResult) :
    SameButSlots named (s.oneShot f) (State.oneShot { s with slots := others } f) :=
  .ite (sameButSlots_fail agree _ _) <| .ite (sameButSlots_fail agree _ _) <|
    .withBytes s.sourceBytes fun m => sameButSlots_finish agree (f m)

/-- HMAC, whose operands are the key and the source. -/
theorem sameButSlots_hmac (v : MacVariant) :
    SameButSlots named (execHmac v s) (execHmac v { s with slots := others }) :=
  .ite (sameButSlots_fail agree _ _) <| .ite (sameButSlots_fail agree _ _) <| .ite (sameButSlots_fail agree _ _) <|
    .withBytes s.keyBytes fun _ => .withBytes s.sourceBytes fun _ => sameButSlots_finish agree _

/-- DERIVE_P2PKH, with its check of the key's length. -/
theorem sameButSlots_deriveP2pkh (net : Net) :
    SameButSlots named (execDeriveP2pkh net s) (execDeriveP2pkh net { s with slots := others }) :=
  .ite (sameButSlots_fail agree _ _) <| .ite (sameButSlots_fail agree _ _) <| .ite (sameButSlots_fail agree _ _) <|
    .withBytes s.sourceBytes fun _ => sameButSlots_finish agree _

end

section
variable {s : State} {c : BitVec 4} {others : List Slot}

/-- The slot a command names is the same in both runs. -/
theorem slot?_withSlots (h : others[c.toNat]? = s.slots[c.toNat]?) :
    State.slot? { s with slots := others } c = s.slot? c := by
  simp only [State.slot?, h]

/-- Replacing the slot in both runs leaves the same contents in it. -/
theorem getElem?_set_of_agree {xs ys : List Slot} {n : Nat} (new : Slot) (h : xs[n]? = ys[n]?) :
    (xs.set n new)[n]? = (ys.set n new)[n]? := by
  simp only [List.getElem?_set_self', h]

variable (agree : ∀ d, some c = some d → others[d.toNat]? = s.slots[d.toNat]?)
include agree

/-- A success that also replaces the named slot. -/
theorem sameButSlots_setSlot_succeed (new : Slot) (out : List Byte) (ver : Byte) :
    SameButSlots (some c) (.next ((s.setSlot c new).succeed out ver))
      (.next ((State.setSlot { s with slots := others } c new).succeed out ver)) := by
  refine sameButSlots_succeed (s := s.setSlot c new) ?_ out ver
  rintro _ ⟨⟩
  exact getElem?_set_of_agree new (agree c rfl)

/-- CTX_INIT. -/
theorem sameButSlots_ctxInit (v : Variant) :
    SameButSlots (some c) (execCtxInit c v s) (execCtxInit c v { s with slots := others }) := by
  unfold execCtxInit
  rw [slot?_withSlots (agree c rfl)]
  cases s.slot? c with
  | none => exact sameButSlots_fail agree _ _
  | some sl => exact sameButSlots_setSlot_succeed agree _ _ _

/-- CTX_UPDATE. -/
theorem sameButSlots_ctxUpdate :
    SameButSlots (some c) (execCtxUpdate c s) (execCtxUpdate c { s with slots := others }) := by
  unfold execCtxUpdate
  rw [slot?_withSlots (agree c rfl)]
  cases s.slot? c with
  | none => exact sameButSlots_fail agree _ _
  | some sl =>
    exact .ite (sameButSlots_fail agree _ _) <| .ite (sameButSlots_fail agree _ _) <|
      .withBytes s.sourceBytes fun m => sameButSlots_setSlot_succeed agree _ _ _

/-- CTX_FINAL. -/
theorem sameButSlots_ctxFinal :
    SameButSlots (some c) (execCtxFinal c s) (execCtxFinal c { s with slots := others }) := by
  unfold execCtxFinal
  rw [slot?_withSlots (agree c rfl)]
  cases s.slot? c with
  | none => exact sameButSlots_fail agree _ _
  | some sl =>
    exact .ite (sameButSlots_fail agree _ _) <| .ite (sameButSlots_fail agree _ _) <|
      .ite (sameButSlots_succeed agree _ _) <| .ite (sameButSlots_fail agree _ _) <|
      sameButSlots_setSlot_succeed agree _ _ _

end

/-- Every command: the slots it does not name make no difference to the rest. -/
theorem exec_sameButSlots (i : Instr) (s : State) (others : List Slot)
    (agree : ∀ c, namedSlot i = some c → others[c.toNat]? = s.slots[c.toNat]?) :
    SameButSlots (namedSlot i) (exec i s) (exec i { s with slots := others }) := by
  cases i with
  | ctxInit c v => exact sameButSlots_ctxInit agree v
  | ctxUpdate c => exact sameButSlots_ctxUpdate agree
  | ctxFinal c => exact sameButSlots_ctxFinal agree
  | hmac v => exact sameButSlots_hmac agree v
  | deriveP2pkh net => exact sameButSlots_deriveP2pkh agree net
  | sha256 | sha224 | rmd160 | b58Enc | b58Dec | b58cEnc ver | b58cDec | wrapP2sh =>
    exact sameButSlots_oneShot agree _

/-- Settles O51, by the comparison of the two runs. -/
theorem commandsObserveOnlyTheirSlot : Obligations.CommandsObserveOnlyTheirSlot := by
  unfold Obligations.CommandsObserveOnlyTheirSlot
  intro i s others agree
  have hsame := exec_sameButSlots i s others agree
  refine ⟨fun f hf => ?_, fun t ht => ?_⟩
  · rw [hf] at hsame
    generalize exec i { s with slots := others } = outcome at hsame ⊢
    cases hsame
    rfl
  · rw [ht] at hsame
    generalize exec i { s with slots := others } = outcome at hsame ⊢
    cases hsame with
    | next _ slots hslots => exact ⟨_, rfl, rfl, hslots⟩

end Sys2Proof.Machine
end

section
/-! The lifecycle (10 R41, R46): how a step can change one slot. -/

namespace Sys2Proof.Machine

/-- What a command can do to slot number `d`: leave it alone, or take it through a transition of the lifecycle, from a
slot that it names. -/
theorem exec_slot {i : Instr} {s t : State} {d : Nat} {a : Slot} (h : exec i s = .next t) (ha : s.slots[d]? = some a) :
    t.slots[d]? = some a ∨
      ∃ b, t.slots[d]? = some b ∧ allowedTransition i d a.lstate b.lstate ∧
        (a.lstate = .finalized → ∃ c v, i = .ctxInit c v ∧ c.toNat = d) := by
  by_cases hnamed : ∀ c, namedSlot i = some c → c.toNat ≠ d
  · exact .inl ((commandsLeaveOtherSlots i s t d h hnamed).trans ha)
  · push Not at hnamed
    obtain ⟨c, hc, rfl⟩ := hnamed
    have hset (new : Slot) : (s.slots.set c.toNat new)[c.toNat]? = some new := by
      simp [List.getElem?_set_self', ha]
    have hslot {sl : Slot} (named : s.slot? c = some sl) : sl = a :=
      Option.some_inj.1 ((State.slot?_eq_some_iff.1 named).2.symm.trans ha)
    have hend : CommandEnd i s (.next t) := h ▸ exec_end i s
    cases hend with
    | failed | stored => exact .inl ha
    | created c' v sl named which =>
      subst which; cases hc
      exact .inr ⟨_, hset _, ⟨rfl, rfl⟩, fun _ => ⟨c, v, rfl, rfl⟩⟩
    | updated c' sl m named which live =>
      subst which; cases hc
      obtain rfl := hslot named
      exact .inr ⟨_, hset _, ⟨rfl, live, rfl⟩, fun hf => by simp [hf] at live⟩
    | finalized c' sl named which live =>
      subst which; cases hc
      obtain rfl := hslot named
      exact .inr ⟨_, hset _, ⟨rfl, live.imp_right .inl, rfl⟩, fun hf => by simp [hf] at live⟩

/-- What a step other than a reset can do to slot number `d`: leave it alone, or run a command that changes it. -/
theorem step_slot {s t : State} {d : Nat} {a : Slot} (h : step s = .next t) (hreset : s.script.head? ≠ some .reset)
    (ha : s.slots[d]? = some a) :
    t.slots[d]? = some a ∨
      (s.busy = true ∧ ∃ i b, decode s.cfg.numCtx s.cmd = .ok i ∧ t.slots[d]? = some b ∧
        allowedTransition i d a.lstate b.lstate ∧ (a.lstate = .finalized → ∃ c v, i = .ctxInit c v ∧ c.toNat = d)) := by
  obtain ⟨hbusy, later, hrun⟩ | ⟨later, hs, -⟩ | ⟨hslots, -⟩ := step_cases h
  · obtain ⟨-, -, rfl⟩ | ⟨i, hdec, hexec⟩ := runCommand_cases hrun
    · exact .inl ha
    · exact (exec_slot (s := { s with script := later }) hexec ha).imp_right
        fun ⟨b, hb, hrest⟩ => ⟨hbusy, i, b, hdec, hb, hrest⟩
  · exact absurd (by simp [hs]) hreset
  · exact .inl (hslots ▸ ha)

/-- Settles O52, from what a step can do to one slot. -/
theorem lifecycleChangesOnlyByItsTransitions : Obligations.LifecycleChangesOnlyByItsTransitions := by
  unfold Obligations.LifecycleChangesOnlyByItsTransitions
  intro s t d a b h hreset ha hb
  obtain hsame | ⟨hbusy, i, b', hdec, hb', hallowed, -⟩ := step_slot h hreset ha
  · obtain rfl : b = a := Option.some_inj.1 (hb.symm.trans hsame)
    exact .inl rfl
  · obtain rfl : b = b' := Option.some_inj.1 (hb.symm.trans hb')
    exact .inr ⟨hbusy, i, hdec, hallowed⟩

/-- Settles O53: of a FINALIZED slot's transitions, only CTX_INIT's changes the slot. -/
theorem finalizedSlotStaysUntilReinitialised : Obligations.FinalizedSlotStaysUntilReinitialised := by
  unfold Obligations.FinalizedSlotStaysUntilReinitialised
  intro s t d a h hreset ha hfinal hinit
  obtain hsame | ⟨-, i, b, hdec, -, -, honly⟩ := step_slot h hreset ha
  · exact hsame
  · obtain ⟨c, v, rfl, hc⟩ := honly hfinal
    exact absurd hc (hinit c v hdec)

end Sys2Proof.Machine
end

section
/-! The register port (10 R23 to R39): the map, the computed registers, and the host's accesses while BUSY = 0. -/

namespace Sys2Proof.Machine

/-- Settles O15, on the sixteen indices and the sixteen registers. -/
theorem everyIndexNamesOneRegister : Obligations.EveryIndexNamesOneRegister := by
  unfold Obligations.EveryIndexNamesOneRegister
  refine ⟨by decide, fun r => ?_⟩
  cases r <;> rfl

/-- Settles O16: STATUS is its fields put together (10 R26), so each field is read back bit by bit. -/
theorem statusShowsBusyDoneAndErr : Obligations.StatusShowsBusyDoneAndErr := by
  unfold Obligations.StatusShowsBusyDoneAndErr
  intro s
  have hbit (i : Nat) : (s.regRead .status).getLsbD i =
      (0#16 ++ s.err ++ 0#6 ++ BitVec.ofBool s.done ++ BitVec.ofBool s.busy).getLsbD i := rfl
  simp only [BitVec.getLsbD_append] at hbit
  refine ⟨by rw [hbit]; simp, by rw [hbit]; simp, ?_, ?_, ?_⟩ <;>
  · ext i hi
    rw [BitVec.getElem_extractLsb', hbit]
    interval_cases i <;> simp

/-! ### CTX_STATE and CTX_VARIANT -/

/-- Slot 0's code stands in bits 1:0. -/
theorem extractLsb'_shift_or_low (rest : Word) (code : BitVec 2) :
    ((rest <<< 2) ||| code.setWidth 32).extractLsb' 0 2 = code := by
  ext i hi
  have hlt : i < 32 := by omega
  simp [hi, hlt]

/-- The codes of the slots after it stand above, in their order. -/
theorem extractLsb'_shift_or_high (rest : Word) (code : BitVec 2) {c : Nat} (h : c + 1 < 16) :
    ((rest <<< 2) ||| code.setWidth 32).extractLsb' (2 * (c + 1)) 2 = rest.extractLsb' (2 * c) 2 := by
  ext i hi
  have hcode : code.getLsbD (2 * (c + 1) + i) = false := BitVec.getLsbD_of_ge _ _ (by omega)
  have hrest : 2 * (c + 1) + i - 2 = 2 * c + i := by omega
  have hlt : 2 * (c + 1) + i < 32 := by omega
  have hge : ¬ 2 * (c + 1) + i < 2 := by omega
  simp only [BitVec.getElem_extractLsb', BitVec.getLsbD_or, BitVec.getLsbD_shiftLeft, BitVec.getLsbD_setWidth]
  simp [hcode, hrest, hlt, hge]

/-- Field c of a packed word is the code of slot c, and 0 where there is no slot c (10 R36, R37). -/
theorem extractLsb'_packSlots (code : Slot → BitVec 2) (slots : List Slot) {c : Nat} (h : c < 16) :
    (packSlots code slots).extractLsb' (2 * c) 2 = (slots[c]?.map code).getD 0 := by
  induction slots generalizing c with
  | nil => simp [packSlots]
  | cons sl rest ih =>
    cases c with
    | zero => exact extractLsb'_shift_or_low _ _
    | succ c => exact (extractLsb'_shift_or_high _ _ h).trans (ih (by omega))

/-! ### Host accesses while BUSY = 0 -/

/-- No register shows what the host has still to do. -/
theorem regRead_withScript (s : State) (later : List Event) (r : Reg) :
    State.regRead { s with script := later } r = s.regRead r := by
  cases r <;> rfl

section
variable {s : State} {later : List Event} (idle : s.busy = false)
include idle

/-- A host write of a register (30 R104). -/
theorem step_wr_of_idle {r : Reg} {v : Word} (h : s.script = .wr r v :: later) :
    step s = .next (State.regWrite { s with script := later } r v) := by
  simp [step, runStep, h, runEvent, hostWrite, idle]

/-- A host read of a register (30 R104). -/
theorem step_rd_of_idle {r : Reg} (h : s.script = .rd r :: later) :
    step s = .next { s with script := later, readings := s.readings ++ [.reg r (s.regRead r)] } := by
  have hstep : step s = .next (State.record { s with script := later }
      (.reg r (State.regRead { s with script := later } r))) := by
    simp [step, runStep, h, runEvent, hostRead, idle]
  rw [hstep, regRead_withScript]
  rfl

end

/-- The registers whose writes the engine ignores (10 R23, R39). -/
theorem regWrite_readOnly (s : State) {r : Reg} (v : Word)
    (h : r ∈ [Reg.id, .status, .resLen, .resVer, .errInfo, .ctxState, .ctxVariant, .config, .reserved]) :
    s.regWrite r v = s := by
  simp only [List.mem_cons, List.not_mem_nil, or_false] at h
  rcases h with rfl | rfl | rfl | rfl | rfl | rfl | rfl | rfl | rfl <;> rfl

/-- What each register reads after a write of an operand register (10 R22). -/
theorem regRead_regWrite_operand (s : State) {r : Reg} (v : Word) (r' : Reg)
    (h : r ∈ [Reg.srcAddr, .srcLen, .dstAddr, .dstCap, .keyAddr, .keyLen]) :
    (s.regWrite r v).regRead r' = if r' = r then v else s.regRead r' := by
  simp only [List.mem_cons, List.not_mem_nil, or_false] at h
  rcases h with rfl | rfl | rfl | rfl | rfl | rfl <;> cases r' <;> rfl

/-- What a host write of a register never touches. -/
theorem regWrite_frame (s : State) (r : Reg) (v : Word) :
    (s.regWrite r v).cfg = s.cfg ∧ (s.regWrite r v).slots = s.slots ∧ (s.regWrite r v).mem = s.mem ∧
      (s.regWrite r v).script = s.script ∧ (s.regWrite r v).readings = s.readings := by
  cases r <;> exact ⟨rfl, rfl, rfl, rfl, rfl⟩

/-- Settles O21: the write is ignored. -/
theorem readOnlyWriteHasNoEffect : Obligations.ReadOnlyWriteHasNoEffect := by
  unfold Obligations.ReadOnlyWriteHasNoEffect
  intro s r v later hr idle hs
  rw [step_wr_of_idle idle hs, regWrite_readOnly _ v hr]

/-- Settles O20, from what a register reads after the write and what the write never touches. -/
theorem operandWriteStoresThatRegisterOnly : Obligations.OperandWriteStoresThatRegisterOnly := by
  unfold Obligations.OperandWriteStoresThatRegisterOnly
  intro s r v later hr idle hs
  have hread (r' : Reg) := regRead_regWrite_operand { s with script := later } v r' hr
  refine ⟨_, step_wr_of_idle idle hs, ?_, fun r' hne => ?_, regWrite_frame { s with script := later } r v⟩
  · rw [hread, if_pos rfl]
  · rw [hread, if_neg hne, regRead_withScript]

/-- Settles O22: the read records the value. -/
theorem registerReadReturnsTheValue : Obligations.RegisterReadReturnsTheValue := by
  unfold Obligations.RegisterReadReturnsTheValue
  intro s r later idle hs
  exact step_rd_of_idle idle hs

/-- Settles O17: CTX_STATE packs the lifecycle codes, and its writes are ignored. -/
theorem ctxStateShowsEveryLifecycle : Obligations.CtxStateShowsEveryLifecycle := by
  unfold Obligations.CtxStateShowsEveryLifecycle
  refine ⟨fun s c _ _ hc => ?_, fun s v later => readOnlyWriteHasNoEffect s .ctxState v later (by decide)⟩
  rw [State.regRead, extractLsb'_packSlots _ _ hc]
  cases s.slots[c]? with
  | none => rfl
  | some sl => cases hl : sl.lstate <;> simp [hl, lstateCode]

/-- Settles O18: CTX_VARIANT packs the shown variants, and its writes are ignored. -/
theorem ctxVariantShowsEveryVariant : Obligations.CtxVariantShowsEveryVariant := by
  unfold Obligations.CtxVariantShowsEveryVariant
  refine ⟨fun s c _ _ hc => ?_, fun s v later => readOnlyWriteHasNoEffect s .ctxVariant v later (by decide)⟩
  rw [State.regRead, extractLsb'_packSlots _ _ hc]
  cases s.slots[c]? with
  | none => rfl
  | some sl => cases hv : sl.var <;> simp [hv, shownVariant, variantCode]

end Sys2Proof.Machine
end

section
/-! Commands: the checks that come before an operand is read, in the order of 60 R275, and the reading of the operands
(20 R63, R64). Each command's meaning is taken apart once, into a `CheckedEnd`. -/

namespace Sys2Proof.Machine

/-- The regions that a command names all lie in DMEM (20 R71). -/
structure RegionsInside (i : Instr) (s : State) : Prop where
  key : usesKey i = true → s.KeyInside
  source : usesSource i = true → s.SourceInside
  dest : usesDest i = true → s.DestInside

/-- A byte of an operand that the command reads was never written (20 R63). -/
def OperandUnwritten (i : Instr) (s : State) : Prop :=
  (usesKey i = true ∧ s.keyBytes = none) ∨ (usesSource i = true ∧ s.sourceBytes = none)

/-- Where a command can end, by the first check of 60 R275 that it does not pass. -/
inductive CheckedEnd (i : Instr) (s : State) : Host.Outcome State Fault Refusal → Prop
  /-- Steps 1 and 2: there is no such slot, or it is in the wrong lifecycle state. -/
  | state (code : Status) (bad : ¬ stateCheckPasses i s) : CheckedEnd i s (.next (s.fail code 0))
  /-- Step 3: a region does not lie in DMEM. -/
  | range (good : stateCheckPasses i s) (bad : ¬ RegionsInside i s) :
      CheckedEnd i s (.next (s.fail .addressRange 0))
  /-- Step 4: the public key has the wrong length. -/
  | length (inside : RegionsInside i s) (bad : ¬ lengthCheckPasses i s) :
      CheckedEnd i s (.next (s.fail .invalidPubkeyLength 0))
  /-- The operands are read, and a byte of them has no value. -/
  | unwritten (good : stateCheckPasses i s) (inside : RegionsInside i s) (length : lengthCheckPasses i s)
      (never : OperandUnwritten i s) : CheckedEnd i s (.fault .uninitRead)
  /-- The operands are read, and the command computes on them and completes. -/
  | computed (t : State) (inside : RegionsInside i s) (written : ¬ OperandUnwritten i s) : CheckedEnd i s (.next t)

section
variable {i : Instr} {s : State} (good : stateCheckPasses i s)
include good

/-- The range check of one of the command's regions. -/
theorem checkedEnd_ite_range {inRange : Bool} {Inside : Prop} {o : Host.Outcome State Fault Refusal}
    (check : inRange = true ↔ Inside) (needed : RegionsInside i s → Inside) (rest : Inside → CheckedEnd i s o) :
    CheckedEnd i s (if !inRange then .next (s.fail .addressRange 0) else o) := by
  cases hin : inRange with
  | false => exact .range good fun inside => by simp [check.2 (needed inside)] at hin
  | true => exact rest (check.1 hin)

/-- The reading of one of the command's operands. -/
theorem checkedEnd_withBytes (inside : RegionsInside i s) (length : lengthCheckPasses i s)
    {operand : Option (List Byte)} {k : List Byte → Host.Outcome State Fault Refusal}
    (needed : operand = none → OperandUnwritten i s) (rest : ∀ m, operand = some m → CheckedEnd i s (k m)) :
    CheckedEnd i s (withBytes operand k) := by
  cases operand with
  | none => exact .unwritten good inside length (needed rfl)
  | some m => exact rest m rfl

/-- The one-shot shape, for a command with a source, a destination and no key. -/
theorem oneShot_checkedEnd {f : List Byte → CmdResult} (length : lengthCheckPasses i s) (key : usesKey i = false)
    (source : usesSource i = true) (dest : usesDest i = true) : CheckedEnd i s (s.oneShot f) :=
  checkedEnd_ite_range good (sourceInRange_iff s) (fun inside => inside.source source) fun sourceInside =>
  checkedEnd_ite_range good (destInRange_iff s) (fun inside => inside.dest dest) fun destInside =>
  have inside : RegionsInside i s := ⟨by simp [key], fun _ => sourceInside, fun _ => destInside⟩
  checkedEnd_withBytes good inside length (fun h => .inr ⟨source, h⟩) fun m hm =>
    .computed _ inside (by simp [OperandUnwritten, key, hm])

end

/-- HMAC: three regions, then the key and the source (41 R183). -/
theorem hmac_checkedEnd (v : MacVariant) (s : State) : CheckedEnd (.hmac v) s (execHmac v s) :=
  have good : stateCheckPasses (.hmac v) s := trivial
  checkedEnd_ite_range good (keyInRange_iff s) (fun inside => inside.key rfl) fun key =>
  checkedEnd_ite_range good (sourceInRange_iff s) (fun inside => inside.source rfl) fun source =>
  checkedEnd_ite_range good (destInRange_iff s) (fun inside => inside.dest rfl) fun dest =>
  have inside : RegionsInside (.hmac v) s := ⟨fun _ => key, fun _ => source, fun _ => dest⟩
  checkedEnd_withBytes good inside trivial (fun h => .inl ⟨rfl, h⟩) fun keyBytes hkey =>
  checkedEnd_withBytes good inside trivial (fun h => .inr ⟨rfl, h⟩) fun msg hmsg =>
    .computed _ inside (by simp [OperandUnwritten, hkey, hmsg])

/-- DERIVE_P2PKH: the length of the public key is checked between the ranges and the reading (44 R260). -/
theorem deriveP2pkh_checkedEnd (net : Net) (s : State) :
    CheckedEnd (.deriveP2pkh net) s (execDeriveP2pkh net s) := by
  have good : stateCheckPasses (.deriveP2pkh net) s := trivial
  refine checkedEnd_ite_range good (sourceInRange_iff s) (fun inside => inside.source rfl) fun source =>
    checkedEnd_ite_range good (destInRange_iff s) (fun inside => inside.dest rfl) fun dest => ?_
  have inside : RegionsInside (.deriveP2pkh net) s := ⟨nofun, fun _ => source, fun _ => dest⟩
  split
  · next hlen => exact .length inside hlen
  · next hlen =>
    exact checkedEnd_withBytes good inside (not_not.1 hlen) (fun h => .inr ⟨rfl, h⟩) fun pub hpub =>
      .computed _ inside (by simp [OperandUnwritten, usesKey, hpub])

/-- CTX_INIT names no region and reads no operand (40 R150). -/
theorem ctxInit_checkedEnd (c : BitVec 4) (v : Variant) (s : State) :
    CheckedEnd (.ctxInit c v) s (execCtxInit c v s) := by
  unfold execCtxInit
  split
  · next hslot => exact .state _ (by simp [stateCheckPasses, hslot])
  · exact .computed _ ⟨nofun, nofun, nofun⟩ (by simp [OperandUnwritten, usesKey, usesSource])

/-- The state check of CTX_UPDATE passes where the slot is in neither of the states it refuses (40 R151). -/
theorem stateCheckPasses_ctxUpdate_iff {c : BitVec 4} {s : State} {sl : Slot} (h : s.slot? c = some sl) :
    stateCheckPasses (.ctxUpdate c) s ↔ ¬ (sl.lstate = .empty ∨ sl.lstate = .finalized) := by
  simp only [stateCheckPasses, h, Option.some.injEq, exists_eq_left']
  cases sl.lstate <;> decide

/-- CTX_UPDATE: a live slot, then the source (40 R151). -/
theorem ctxUpdate_checkedEnd (c : BitVec 4) (s : State) : CheckedEnd (.ctxUpdate c) s (execCtxUpdate c s) := by
  unfold execCtxUpdate
  split
  · next hslot => exact .state _ (by simp [stateCheckPasses, hslot])
  · next sl hslot =>
    split
    · next hdead => exact .state _ fun good => (stateCheckPasses_ctxUpdate_iff hslot).1 good hdead
    · next hlive =>
      have good := (stateCheckPasses_ctxUpdate_iff hslot).2 hlive
      refine checkedEnd_ite_range good (sourceInRange_iff s) (fun inside => inside.source rfl) fun source => ?_
      have inside : RegionsInside (.ctxUpdate c) s := ⟨nofun, fun _ => source, nofun⟩
      exact checkedEnd_withBytes good inside trivial (fun h => .inr ⟨rfl, h⟩) fun m hm =>
        .computed _ inside (by simp [OperandUnwritten, usesKey, hm])

/-- CTX_FINAL: a slot that is not EMPTY, then the destination; no operand is read (40 R152). -/
theorem ctxFinal_checkedEnd (c : BitVec 4) (s : State) : CheckedEnd (.ctxFinal c) s (execCtxFinal c s) := by
  unfold execCtxFinal
  split
  · next hslot => exact .state _ (by simp [stateCheckPasses, hslot])
  · next sl hslot =>
    split
    · next hempty => exact .state _ (by simp [stateCheckPasses, hslot, hempty])
    · next hempty =>
      have good : stateCheckPasses (.ctxFinal c) s := ⟨sl, hslot, hempty⟩
      refine checkedEnd_ite_range good (destInRange_iff s) (fun inside => inside.dest rfl) fun dest => ?_
      have inside : RegionsInside (.ctxFinal c) s := ⟨nofun, nofun, fun _ => dest⟩
      have written : ¬ OperandUnwritten (.ctxFinal c) s := by simp [OperandUnwritten, usesKey, usesSource]
      split
      · exact .computed _ inside written
      · split <;> exact .computed _ inside written

/-- Every command checks in the order of 60 R275. -/
theorem exec_checkedEnd (i : Instr) (s : State) : CheckedEnd i s (exec i s) := by
  cases i with
  | ctxInit c v => exact ctxInit_checkedEnd c v s
  | ctxUpdate c => exact ctxUpdate_checkedEnd c s
  | ctxFinal c => exact ctxFinal_checkedEnd c s
  | hmac v => exact hmac_checkedEnd v s
  | deriveP2pkh net => exact deriveP2pkh_checkedEnd net s
  | sha256 | sha224 | rmd160 | b58Enc | b58Dec | b58cEnc | b58cDec | wrapP2sh =>
    refine oneShot_checkedEnd ?_ ?_ rfl rfl rfl <;> trivial

/-- Settles O43: past the state checks, only the range check has a region outside DMEM. -/
theorem regionOutsideDmemIsAddressRange : Obligations.RegionOutsideDmemIsAddressRange := by
  unfold Obligations.RegionOutsideDmemIsAddressRange
  intro i s good outside
  have notInside : ¬ RegionsInside i s := by
    rintro ⟨key, source, dest⟩
    rcases outside with ⟨uses, out⟩ | ⟨uses, out⟩ | ⟨uses, out⟩
    · exact out (key uses)
    · exact out (source uses)
    · exact out (dest uses)
  have hend := exec_checkedEnd i s
  generalize exec i s = o at hend ⊢
  cases hend with
  | state code bad => exact absurd good bad
  | range => rfl
  | length inside | unwritten _ inside | computed _ inside => exact absurd inside notInside

/-- Settles O44: `CheckedEnd` has one fault, and each of its other ends misses one of the conditions for that fault. -/
theorem commandFaultsExactlyOnUnwrittenOperands : Obligations.CommandFaultsExactlyOnUnwrittenOperands := by
  unfold Obligations.CommandFaultsExactlyOnUnwrittenOperands
  intro i s
  have hend := exec_checkedEnd i s
  generalize exec i s = o at hend ⊢
  refine ⟨⟨?_, ?_⟩, ?_, ?_⟩
  · rintro ⟨f, rfl⟩
    cases hend with
    | unwritten good inside length never => exact ⟨good, inside.key, inside.source, inside.dest, length, never⟩
  · rintro ⟨good, key, source, dest, length, never⟩
    cases hend with
    | state code bad => exact absurd good bad
    | range _ bad => exact absurd ⟨key, source, dest⟩ bad
    | length _ bad => exact absurd length bad
    | unwritten => exact ⟨_, rfl⟩
    | computed _ _ written => exact absurd never written
  · rintro f rfl
    cases hend
    rfl
  · rintro r rfl
    cases hend

end Sys2Proof.Machine
end

section
/-! Commands: what they store in DMEM (20 R65, R73). -/

namespace Sys2Proof.Machine

/-- A command stores an output of RES_LEN bytes at DST_ADDR: an empty one where it fails, and where it has no
destination. -/
theorem exec_mem {i : Instr} {s t : State} (h : exec i s = .next t) :
    ∃ out : List Byte, t.mem = s.mem.writeBytes s.dstAddr.toNat out ∧ t.resLen.toNat = out.length ∧
      (usesDest i = false → out = []) := by
  have hend : CommandEnd i s (.next t) := h ▸ exec_end i s
  cases hend with
  | failed | created | updated => exact ⟨[], rfl, rfl, fun _ => rfl⟩
  | stored out ver hasDest fits => exact ⟨out, rfl, toNat_ofNat_of_fits fits, by simp [hasDest]⟩
  | finalized c sl named which live fits =>
    subst which
    have hlen := sl.length_digestBytes_finalize
    exact ⟨sl.finalize.digestBytes, rfl, hlen ▸ toNat_ofNat_of_fits (hlen.trans_le fits), nofun⟩

/-- Settles O46: a store leaves every byte outside the stored ones alone. -/
theorem commandsStoreOnlyTheOutput : Obligations.CommandsStoreOnlyTheOutput := by
  unfold Obligations.CommandsStoreOnlyTheOutput
  intro i s t h
  obtain ⟨out, hmem, hlen, hnone⟩ := exec_mem h
  rw [hmem, hlen]
  refine ⟨fun a ha => Memory.read_writeBytes_outside _ _ _ ha, fun hdest a => ?_⟩
  rw [hnone hdest, Memory.writeBytes]

/-- Settles O47: a string that was stored reads back. -/
theorem storedOutputIsReadable : Obligations.StoredOutputIsReadable := by
  unfold Obligations.StoredOutputIsReadable
  intro i s t h
  obtain ⟨out, hmem, hlen, -⟩ := exec_mem h
  exact ⟨out, by rw [hmem, hlen, Memory.readBytes_writeBytes]⟩

end Sys2Proof.Machine
end

section
/-! The data port (20 R62, R63) while BUSY = 0. -/

namespace Sys2Proof.Machine

section
variable {s : State} {a : Nat} {later : List Event} (idle : s.busy = false)
include idle

/-- A host write of a byte inside DMEM. -/
theorem step_mw_of_inside {b : Byte} (inside : a < 2 ^ s.cfg.dmemAw) (h : s.script = .mw a b :: later) :
    step s = .next { s with script := later, mem := s.mem.write a b } := by
  simp [step, runStep, h, runEvent, hostMemWrite, idle, Config.dmemSize, inside]

/-- A host read of a byte inside DMEM that was written. -/
theorem step_mr_of_written {b : Byte} (inside : a < 2 ^ s.cfg.dmemAw) (written : s.mem.read a = some b)
    (h : s.script = .mr a :: later) :
    step s = .next { s with script := later, readings := s.readings ++ [.byte a b] } := by
  simp [step, runStep, h, runEvent, hostMemRead, idle, Config.dmemSize, inside, written, State.record]

/-- A host read of a byte inside DMEM that was never written. -/
theorem step_mr_of_unwritten (inside : a < 2 ^ s.cfg.dmemAw) (unwritten : s.mem.read a = none)
    (h : s.script = .mr a :: later) : step s = .fault .uninitRead := by
  simp [step, runStep, h, runEvent, hostMemRead, idle, Config.dmemSize, inside, unwritten]

/-- A host read at an address that the port cannot carry. -/
theorem step_mr_of_beyond (beyond : 2 ^ s.cfg.dmemAw ≤ a) (h : s.script = .mr a :: later) :
    step s = .fault .noSuchAddress := by
  simp [step, runStep, h, runEvent, hostMemRead, idle, Config.dmemSize, beyond]

/-- A host write at an address that the port cannot carry. -/
theorem step_mw_of_beyond {b : Byte} (beyond : 2 ^ s.cfg.dmemAw ≤ a) (h : s.script = .mw a b :: later) :
    step s = .fault .noSuchAddress := by
  simp [step, runStep, h, runEvent, hostMemWrite, idle, Config.dmemSize, beyond]

end

/-- Settles O24: the write, then the read of what it wrote. -/
theorem dataPortWriteThenRead : Obligations.DataPortWriteThenRead := by
  unfold Obligations.DataPortWriteThenRead
  intro s a b later idle inside hs
  have write := step_mw_of_inside idle inside hs
  have read := step_mr_of_written (s := { s with script := .mr a :: later, mem := s.mem.write a b }) idle inside
    (Memory.read_write_same s.mem a b) rfl
  exact ⟨_, _, write, read, fun a' hne => Memory.read_write_other s.mem b hne, rfl, rfl⟩

/-- Settles O25: the byte has no value. -/
theorem hostReadOfUnwrittenByteFaults : Obligations.HostReadOfUnwrittenByteFaults := by
  unfold Obligations.HostReadOfUnwrittenByteFaults
  intro s a later idle inside unwritten hs
  exact step_mr_of_unwritten idle inside unwritten hs

/-- Settles O26: both accesses check the address before they look at the memory. -/
theorem addressBeyondThePortFaults : Obligations.AddressBeyondThePortFaults := by
  unfold Obligations.AddressBeyondThePortFaults
  intro s a b later idle beyond
  exact ⟨step_mr_of_beyond idle beyond, step_mw_of_beyond idle beyond⟩

end Sys2Proof.Machine
end

section
/-! The command word (30 R90 to R103): a word is selected by at most one row, the rows read back exactly the words of the
commands, and so the decoder accepts exactly the words of the commands the engine has. -/

namespace Sys2Proof

/-! ### Fields and codes -/

/-- A word is the word of a command exactly when its fields are the command's and its reserved bits are 0 (30 R91,
R96). -/
theorem encode_eq_iff_fields (i : Instr) (w : Word) :
    encode i = w ↔ opField w = opcode i ∧ ctxField w = ctxOf i ∧ varField w = varOf i ∧ netField w = netOf i ∧
      verField w = verOf i ∧ w.extractLsb' 15 1 = 0 ∧ w.extractLsb' 24 8 = 0 := by
  constructor
  · rintro rfl
    exact fields_of_word _ _ _ _ _ _ rfl
  · rintro ⟨op, ctx, var, net, ver, bit15, high⟩
    rw [word_eq_fields w, op, ctx, var, net, ver, bit15, high]
    rfl

/-- `variantOfCode` undoes `variantCode` (30 R93). -/
theorem eq_variantCode_iff (code : BitVec 2) (v : Variant) :
    code = variantCode v ↔ variantOfCode code = some v := by
  cases v <;> revert code <;> decide

/-- `macVariantOfCode` undoes `macVariantCode` on the codes that HMAC's mask lets through: those with VAR[1] = 0 (30 R99,
41 R180). -/
theorem eq_macVariantCode_iff (code : BitVec 2) (v : MacVariant) :
    code = macVariantCode v ↔ macVariantOfCode code = v ∧ code &&& 2#2 = 0#2 := by
  cases v <;> revert code <;> decide

/-- `netOfCode` undoes `netCode` (30 R93). -/
theorem eq_netCode_iff (code : BitVec 1) (net : Net) : code = netCode net ↔ netOfCode code = net := by
  cases net <;> revert code <;> decide

/-- Code 3 names no variant (30 R93). -/
theorem variantOfCode_eq_none_iff (code : BitVec 2) : variantOfCode code = none ↔ code = 3#2 := by
  revert code; decide

theorem variantCode_ne_three (v : Variant) : variantCode v ≠ 3#2 := by
  cases v <;> decide

theorem macVariantCode_getElem_one (v : MacVariant) : (macVariantCode v)[1] = false := by
  cases v <;> rfl

/-- The mask of HMAC's row, on the field VAR, is VAR[1] (30 R99). -/
theorem and_two_eq_zero_iff (code : BitVec 2) : code &&& 2#2 = 0#2 ↔ code[1] = false := by
  revert code; decide

/-! ### The rows -/

/-- The OP column of the table (30 R98, R99). -/
theorem rows_opField : rows.map (fun r => opField r.pattern) =
    [0x01, 0x02, 0x03, 0x10, 0x11, 0x12, 0x13, 0x20, 0x21, 0x22, 0x23, 0x30, 0x31] := rfl

theorem nodup_rows_opField : (rows.map (fun r => opField r.pattern)).Nodup := by
  rw [rows_opField]; decide

/-- Every row's mask covers the whole OP (30 R99). -/
theorem opField_mask {r : Row} (hr : r ∈ rows) : opField r.mask = BitVec.allOnes 8 := by
  revert r
  simp only [rows, List.forall_mem_cons]
  decide

/-- A row selects only words with its own OP (30 R99). -/
theorem opField_of_selects {r : Row} {w : Word} (hr : r ∈ rows) (h : r.selects w = true) :
    opField w = opField r.pattern := by
  obtain ⟨-, -, -, -, -, -, hop⟩ := (Row.selects_iff_fields r w).1 h
  rwa [opField_mask hr, BitVec.and_allOnes] at hop

/-- Rows that select the same word have the same OP. -/
theorem opField_eq_of_selects {r r' : Row} {w : Word} (hr : r ∈ rows) (hr' : r' ∈ rows) (h : r.selects w = true)
    (h' : r'.selects w = true) : opField r.pattern = opField r'.pattern :=
  (opField_of_selects hr h).symm.trans (opField_of_selects hr' h')

/-- Settles O3: the two rows have the word's OP, and no two rows have the same one. -/
theorem noWordMatchesTwoRows : Obligations.NoWordMatchesTwoRows := by
  unfold Obligations.NoWordMatchesTwoRows
  intro m n w hm hn
  have hop := opField_eq_of_selects (List.getElem_mem m.isLt) (List.getElem_mem n.isLt) hm hn
  rw [Fin.ext_iff, ← nodup_rows_opField.getElem_inj_iff (hi := by simp) (hj := by simp)]
  simpa using hop

/-- The row that `decode` finds for a word is the one row that selects it (30 R99, R100). -/
theorem find?_rows_eq_some_iff (r : Row) (w : Word) :
    rows.find? (fun r => r.selects w) = some r ↔ r ∈ rows ∧ r.selects w = true := by
  have sound {r : Row} (h : rows.find? (fun r => r.selects w) = some r) : r ∈ rows ∧ r.selects w = true :=
    ⟨List.mem_of_find?_eq_some h, by simpa using List.find?_some h⟩
  refine ⟨sound, fun ⟨hr, hsel⟩ => ?_⟩
  have hsome : (rows.find? fun r => r.selects w).isSome := List.find?_isSome.2 ⟨r, hr, hsel⟩
  obtain ⟨found, hfound⟩ := Option.isSome_iff_exists.1 hsome
  obtain ⟨hmem, hfoundSel⟩ := sound hfound
  have hop := opField_eq_of_selects hmem hr hfoundSel hsel
  rw [hfound, List.inj_on_of_nodup_map nodup_rows_opField hmem hr hop]

/-- The words that a row selects and reads as a command are the command's word alone: the masks leave open the bits that
`build` reads, and no other (30 R97, R99). -/
theorem exists_row_iff_encode_eq (i : Instr) (w : Word) :
    (∃ r ∈ rows, r.build w = some i ∧ r.selects w = true) ↔ encode i = w := by
  have mask8 (x : Byte) : x &&& 255#8 = x := BitVec.and_allOnes
  have mask4 (x : BitVec 4) : x &&& 15#4 = x := BitVec.and_allOnes
  have mask2 (x : BitVec 2) : x &&& 3#2 = x := BitVec.and_allOnes
  have mask1 (x : BitVec 1) : x &&& 1#1 = x := BitVec.and_allOnes
  rw [encode_eq_iff_fields]
  cases i
  all_goals
    -- only the command's own row builds it
    simp only [rows, List.exists_mem_cons_iff, List.not_mem_nil, false_and, exists_false, or_false, false_or, true_and,
      Option.some.injEq, Option.map_eq_some_iff, reduceCtorEq, and_false, exists_eq_right_right, Instr.ctxInit.injEq,
      Instr.ctxUpdate.injEq, Instr.ctxFinal.injEq, Instr.hmac.injEq, Instr.b58cEnc.injEq, Instr.deriveP2pkh.injEq]
    -- and its mask fixes every field but the command's operands
    rw [Row.selects_iff_fields]
    simp only [opField, ctxField, varField, netField, verField, opcode, ctxOf, varOf, netOf, verOf,
      BitVec.ofNat_eq_ofNat, BitVec.reduceExtractLsb', BitVec.and_zero, mask8, mask4, mask2, mask1, eq_variantCode_iff,
      eq_macVariantCode_iff, eq_netCode_iff]
    tauto

/-! ### The decoder -/

/-- The decoder accepts exactly the words of the commands the engine has (30 R100, R103). -/
theorem decode_eq_ok_iff (numCtx : Nat) (w : Word) (i : Instr) :
    decode numCtx w = .ok i ↔ encode i = w ∧ i.wellFormed numCtx = true := by
  rw [← exists_row_iff_encode_eq]
  constructor
  · intro h
    unfold decode at h
    split at h
    · cases h
    next r hfind =>
    split at h
    · cases h
    next j hbuild =>
    split at h <;> cases h
    next hwf =>
    obtain ⟨hr, hsel⟩ := (find?_rows_eq_some_iff r w).1 hfind
    exact ⟨⟨r, hr, hbuild, hsel⟩, hwf⟩
  · rintro ⟨⟨r, hr, hbuild, hsel⟩, hwf⟩
    simp only [decode, (find?_rows_eq_some_iff r w).2 ⟨hr, hsel⟩, hbuild, hwf, if_true]

/-- A word is illegal when it is no word of a command the engine has. -/
theorem exists_decode_eq_error_iff (numCtx : Nat) (w : Word) :
    (∃ e, decode numCtx w = .error e) ↔ ¬ ∃ i : Instr, encode i = w ∧ i.wellFormed numCtx = true := by
  simp only [← decode_eq_ok_iff]
  cases decode numCtx w <;> simp

/-- Settles O1: the command's word is a word that the decoder accepts for it. -/
theorem decodeOfEncodeIsTheCommand : Obligations.DecodeOfEncodeIsTheCommand := by
  unfold Obligations.DecodeOfEncodeIsTheCommand
  intro numCtx i hwf
  exact (decode_eq_ok_iff numCtx (encode i) i).2 ⟨rfl, hwf⟩

/-- Settles O2: the decoder accepts no other word for the command. -/
theorem decodedWordIsTheCommandsWord : Obligations.DecodedWordIsTheCommandsWord := by
  unfold Obligations.DecodedWordIsTheCommandsWord
  intro numCtx w i h
  exact (decode_eq_ok_iff numCtx w i).1 h

/-- Settles O5, by decoding each word. -/
theorem sampleWordsDecode : Obligations.SampleWordsDecode := by
  unfold Obligations.SampleWordsDecode
  exact ⟨rfl, rfl, rfl, rfl, rfl, rfl, rfl, rfl, rfl⟩

/-- Settles O4: a word with none of the reserved patterns has the fields of some command, by the cases of its OP, and no
command's word has one of them. -/
theorem reservedSpaceIsExactlyTheIllegalWords : Obligations.ReservedSpaceIsExactlyTheIllegalWords := by
  unfold Obligations.ReservedSpaceIsExactlyTheIllegalWords
  intro numCtx w
  rw [exists_decode_eq_error_iff, not_iff_comm]
  simp only [not_or, not_and, not_not, encode_eq_iff_fields]
  constructor
  · rintro ⟨listed, bit15, high, ctx, var, net, ver, notThree, notHigh, slot⟩
    simp only [List.mem_cons, List.not_mem_nil, or_false] at listed
    rcases listed with op | op | op | op | op | op | op | op | op | op | op | op | op
    all_goals
      simp only [op, List.mem_cons, List.not_mem_nil, BitVec.ofNat_eq_ofNat, BitVec.reduceEq, ne_eq, or_false, or_true,
        or_self, not_true_eq_false, not_false_eq_true, false_imp_iff, true_imp_iff, not_le, Bool.not_eq_true]
        at ctx var net ver notThree notHigh slot
    · obtain ⟨v, hv⟩ := Option.ne_none_iff_exists'.1 (mt (variantOfCode_eq_none_iff _).1 notThree)
      have hvar := (eq_variantCode_iff _ _).2 hv
      exact ⟨.ctxInit (ctxField w) v, ⟨op, rfl, hvar, net, ver, bit15, high⟩, decide_eq_true slot⟩
    · exact ⟨.ctxUpdate (ctxField w), ⟨op, rfl, var, net, ver, bit15, high⟩, decide_eq_true slot⟩
    · exact ⟨.ctxFinal (ctxField w), ⟨op, rfl, var, net, ver, bit15, high⟩, decide_eq_true slot⟩
    · exact ⟨.sha256, ⟨op, ctx, var, net, ver, bit15, high⟩, rfl⟩
    · exact ⟨.sha224, ⟨op, ctx, var, net, ver, bit15, high⟩, rfl⟩
    · exact ⟨.rmd160, ⟨op, ctx, var, net, ver, bit15, high⟩, rfl⟩
    · have hvar := (eq_macVariantCode_iff (varField w) _).2 ⟨rfl, (and_two_eq_zero_iff _).2 notHigh⟩
      exact ⟨.hmac _, ⟨op, ctx, hvar, net, ver, bit15, high⟩, rfl⟩
    · exact ⟨.b58Enc, ⟨op, ctx, var, net, ver, bit15, high⟩, rfl⟩
    · exact ⟨.b58Dec, ⟨op, ctx, var, net, ver, bit15, high⟩, rfl⟩
    · exact ⟨.b58cEnc (verField w), ⟨op, ctx, var, net, rfl, bit15, high⟩, rfl⟩
    · exact ⟨.b58cDec, ⟨op, ctx, var, net, ver, bit15, high⟩, rfl⟩
    · exact ⟨.deriveP2pkh _, ⟨op, ctx, var, (eq_netCode_iff (netField w) _).2 rfl, ver, bit15, high⟩, rfl⟩
    · exact ⟨.wrapP2sh, ⟨op, ctx, var, net, ver, bit15, high⟩, rfl⟩
  · rintro ⟨i, ⟨op, ctx, var, net, ver, bit15, high⟩, hwf⟩
    simp only [op, ctx, var, net, ver, bit15, high]
    revert hwf
    cases i <;> simp [opcode, ctxOf, varOf, netOf, verOf, Instr.wellFormed, variantCode_ne_three,
      macVariantCode_getElem_one]

end Sys2Proof
end

section
/-! POLL (30 R104; log 3). -/

namespace Sys2Proof.Machine

/-- A POLL that reads DONE = 1. -/
theorem step_poll_of_done {s : State} {later : List Event} (h : s.script = .poll :: later) (done : s.done = true) :
    step s = .next { s with script := later, readings := s.readings ++ [.reg .status (s.regRead .status)] } := by
  simp [step, runStep, h, runEvent, hostPoll, done, State.record]

/-- A POLL that reads DONE = 0 lets the ENGINE move. -/
theorem step_poll_of_not_done {s : State} {later : List Event} (h : s.script = .poll :: later) (waits : s.done = false) :
    step s = engineStep s := by
  simp [step, runStep, h, runEvent, hostPoll, waits]

theorem engineStep_of_idle {s : State} (idle : s.busy = false) : engineStep s = .next s := by
  simp [engineStep, idle]

/-- Settles O9: with DONE = 0 the POLL is the ENGINE's step, and the ENGINE is idle. -/
theorem pollEndsWhenDoneReadsOne : Obligations.PollEndsWhenDoneReadsOne := by
  unfold Obligations.PollEndsWhenDoneReadsOne
  intro s later hs
  exact ⟨step_poll_of_done hs, fun waits idle => (step_poll_of_not_done hs waits).trans (engineStep_of_idle idle)⟩

end Sys2Proof.Machine
end

section
/-! Context commands on a slot that the engine does not have (30 R94, 60 R278; log 10). -/

namespace Sys2Proof.Machine

theorem State.slot?_eq_none_of_numCtx_le {s : State} {c : BitVec 4} (h : s.cfg.numCtx ≤ c.toNat) : s.slot? c = none :=
  if_neg (Nat.not_lt.2 h)

/-- An error completion, as the rules write it out (60 R273). -/
theorem State.fail_eq_afterError (s : State) (code : Status) (info : Word) :
    s.fail code info = s.afterError (statusCode code) info := rfl

/-- Settles O32: there is no slot to find. -/
theorem missingSlotIsIllegalCommand : Obligations.MissingSlotIsIllegalCommand := by
  unfold Obligations.MissingSlotIsIllegalCommand
  intro s c missing
  have hslot := State.slot?_eq_none_of_numCtx_le missing
  have hillegal : s.illegal = s.afterError 0x10 0 := State.fail_eq_afterError s .illegalCommand 0
  simp only [exec, execCtxInit, execCtxUpdate, execCtxFinal, hslot, hillegal, implies_true, and_self]

end Sys2Proof.Machine
end

section
/-! Where the operand checks pass, what the digest commands of 40_sha2_digest.md complete with (40 R150 to
R154, 42 R210). -/

namespace Sys2Proof.Machine

/-! ### Completion -/

/-- An output that fits ends the command with status OK, as the rules write it out (60 R274). -/
theorem State.succeed_eq_afterOk {s : State} {out : List Byte} (fits : out.length ≤ s.dstCap.toNat) (ver : Byte) :
    s.succeed out ver = s.afterOk out ver := State.succeed_of_fits fits ver

/-- An output that does not fit ends the command with OUTPUT_OVERFLOW (60 R274). -/
theorem State.succeed_eq_afterError {s : State} {out : List Byte} (overflow : s.dstCap.toNat < out.length)
    (ver : Byte) : s.succeed out ver = s.afterError 0x12 0 := State.succeed_of_overflow overflow ver

/-- A one-shot command with its regions in DMEM and its source written goes on to compute (20 R71, R72). -/
theorem State.oneShot_of_inside {s : State} {m : List Byte} (source : s.SourceInside) (dest : s.DestInside)
    (bytes : s.sourceBytes = some m) (f : List Byte → CmdResult) : s.oneShot f = .next (s.finish (f m)) := by
  simp [State.oneShot, (sourceInRange_iff s).2 source, (destInRange_iff s).2 dest, bytes, withBytes]

/-- Settles O33: the digest has DLEN bytes, which fit or not. -/
theorem oneShotDigestsWriteTheDigest : Obligations.OneShotDigestsWriteTheDigest := by
  unfold Obligations.OneShotDigestsWriteTheDigest
  intro i v s m hi source dest bytes
  have hexec : exec i s = .next (s.succeed (digest v m) 0) := by
    have hshot := State.oneShot_of_inside source dest bytes fun m => .ok (digest v m) 0
    simp only [List.mem_cons, Prod.mk.injEq, List.not_mem_nil, or_false] at hi
    obtain ⟨rfl, rfl⟩ | ⟨rfl, rfl⟩ | ⟨rfl, rfl⟩ := hi <;> exact hshot
  rw [hexec, ← length_digest v m]
  exact ⟨fun fits => by rw [State.succeed_eq_afterOk fits],
    fun overflow => by rw [State.succeed_eq_afterError overflow]⟩

/-! ### The context commands -/

/-- A live context is neither EMPTY nor FINALIZED (10 R41). -/
theorem ne_of_live {l : LState} (live : l = .init ∨ l = .absorbing) : l ≠ .empty ∧ l ≠ .finalized := by
  rcases live with rfl | rfl <;> exact ⟨nofun, nofun⟩

section
variable {s : State} {c : BitVec 4} {sl : Slot} (named : s.slot? c = some sl)
include named

/-- CTX_INIT of a slot that is there (40 R150). -/
theorem exec_ctxInit_of_named (v : Variant) :
    exec (.ctxInit c v) s = .next ((s.setSlot c (Slot.fresh v)).afterOk [] 0) := by
  simp only [exec, execCtxInit, named, ← State.succeed_eq_afterOk (out := []) (Nat.zero_le _)]

/-- CTX_UPDATE of a live slot, with its source in DMEM and written (40 R151). -/
theorem exec_ctxUpdate_of_live (live : sl.lstate = .init ∨ sl.lstate = .absorbing) (source : s.SourceInside)
    {m : List Byte} (bytes : s.sourceBytes = some m) :
    exec (.ctxUpdate c) s = .next ((s.setSlot c (sl.update m)).afterOk [] 0) := by
  obtain ⟨notEmpty, notFinal⟩ := ne_of_live live
  simp [exec, execCtxUpdate, named, notEmpty, notFinal, (sourceInRange_iff s).2 source, bytes, withBytes,
    ← State.succeed_eq_afterOk (out := []) (Nat.zero_le _)]

/-- CTX_FINAL of a slot that is not EMPTY, with its destination in DMEM, goes on to its output (40 R152). -/
theorem exec_ctxFinal_of_inside (used : sl.lstate ≠ .empty) (dest : s.DestInside) :
    exec (.ctxFinal c) s =
      if sl.lstate = .finalized then .next (s.succeed sl.digestBytes 0)
      else if s.dstCap.toNat < digestLen sl.var then .next (s.afterError 0x12 0)
      else .next ((s.setSlot c sl.finalize).afterOk sl.finalize.digestBytes 0) := by
  simp only [exec, execCtxFinal, named, used, if_false, (destInRange_iff s).2 dest, Bool.not_true, Bool.false_eq_true]
  refine ite_congr rfl (fun _ => rfl) fun _ => ite_congr rfl (fun _ => rfl) fun fits => ?_
  rw [State.succeed_eq_afterOk (by rw [Slot.length_digestBytes_finalize]; exact Nat.not_lt.1 fits)]

/-- CTX_FINAL of a live slot whose digest fits. -/
theorem exec_ctxFinal_of_live (live : sl.lstate = .init ∨ sl.lstate = .absorbing) (dest : s.DestInside)
    (fits : digestLen sl.var ≤ s.dstCap.toNat) :
    exec (.ctxFinal c) s = .next ((s.setSlot c sl.finalize).afterOk sl.finalize.digestBytes 0) := by
  obtain ⟨notEmpty, notFinal⟩ := ne_of_live live
  rw [exec_ctxFinal_of_inside named notEmpty dest, if_neg notFinal, if_neg (Nat.not_lt.2 fits)]

/-- CTX_FINAL of a live slot whose digest does not fit. -/
theorem exec_ctxFinal_of_overflow (live : sl.lstate = .init ∨ sl.lstate = .absorbing) (dest : s.DestInside)
    (overflow : s.dstCap.toNat < digestLen sl.var) : exec (.ctxFinal c) s = .next (s.afterError 0x12 0) := by
  obtain ⟨notEmpty, notFinal⟩ := ne_of_live live
  rw [exec_ctxFinal_of_inside named notEmpty dest, if_neg notFinal, if_pos overflow]

end

/-- Settles O27: the context is a fresh one. -/
theorem ctxInitCreatesAContext : Obligations.CtxInitCreatesAContext := by
  unfold Obligations.CtxInitCreatesAContext
  intro s c v sl named
  rw [exec_ctxInit_of_named named]
  cases v <;> rfl

/-- Settles O28: SRC_LEN is the number of bytes absorbed. -/
theorem ctxUpdateAbsorbsTheSource : Obligations.CtxUpdateAbsorbsTheSource := by
  unfold Obligations.CtxUpdateAbsorbsTheSource
  intro s c sl m named live source bytes
  have hlen : s.srcLen.setWidth 64 = BitVec.ofNat 64 m.length := by
    rw [State.length_sourceBytes bytes, BitVec.ofNat_toNat]
  rw [exec_ctxUpdate_of_live named live source bytes, hlen]
  rfl

/-- What is latched is the digest and then zeros (10 R46, 40 R142). -/
theorem toList_latch {d : List Byte} (h : d.length ≤ 32) :
    (latch d).toList = d ++ List.replicate (32 - d.length) 0 := by
  rw [← List.take_append_drop d.length (latch d).toList, take_latch d h, drop_latch]

/-- Settles O29: the new slot is the finalized one. -/
theorem ctxFinalWritesTheDigest : Obligations.CtxFinalWritesTheDigest := by
  unfold Obligations.CtxFinalWritesTheDigest
  intro s c sl named live dest
  refine ⟨fun fits => ⟨sl.finalize, ?_, ?_, ?_⟩, exec_ctxFinal_of_overflow named live dest⟩
  · rw [exec_ctxFinal_of_live named live dest fits, Slot.digestBytes_finalize]
    rfl
  · rfl
  · have hlatch := toList_latch (d := digestOut sl.var (sl.absorb (padding sl.var sl.total)).h)
      (by rw [length_digestOut]; exact digestLen_le _)
    simpa [Slot.finalize] using hlatch

/-- Settles O30: the latched digest has DLEN bytes, which fit or not. -/
theorem ctxFinalReplaysTheLatchedDigest : Obligations.CtxFinalReplaysTheLatchedDigest := by
  unfold Obligations.CtxFinalReplaysTheLatchedDigest
  intro s c sl named final dest
  have hlen : sl.digestBytes.length = digestLen sl.var := by simp [Slot.digestBytes, digestLen_le]
  rw [exec_ctxFinal_of_inside named (by simp [final]) dest, if_pos final, ← hlen]
  exact ⟨fun fits => by rw [State.succeed_eq_afterOk fits, hlen]; rfl,
    fun overflow => by rw [State.succeed_eq_afterError overflow]⟩

end Sys2Proof.Machine
end

section
/-! The padding (40 R129, 42 R205). -/

namespace Sys2Proof.Machine

/-- Settles O54: the zeros are as many as the last block lacks. -/
theorem paddingEndsABlock : Obligations.PaddingEndsABlock := by
  unfold Obligations.PaddingEndsABlock
  intro v total
  rw [length_padding, padZeros]
  omega

end Sys2Proof.Machine
end

section
/-! Streams (40 R143): a stream of updates absorbs the whole message, however it was split. -/

namespace Sys2Proof.Machine

/-! ### Slots -/

/-- absorb reads neither LSTATE nor TOTAL: changing them before is changing them after. -/
theorem Slot.absorb_withLStateTotal (sl : Slot) (m : List Byte) (l : LState) (t : BitVec 64) :
    ({ sl with lstate := l, total := t }).absorb m = { sl.absorb m with lstate := l, total := t } := by
  simpa using sl.absorb_with m l t sl.digest

/-- Two updates are one update by the concatenation (40 R143). -/
theorem Slot.update_update (sl : Slot) (m n : List Byte) : (sl.update m).update n = sl.update (m ++ n) := by
  simp only [Slot.update, Slot.absorb_withLStateTotal, Slot.absorb_append, List.length_append, BitVec.ofNat_add,
    BitVec.add_assoc]

/-- Finalization does not look at LSTATE. -/
theorem Slot.finalize_withLState (sl : Slot) (l : LState) : ({ sl with lstate := l }).finalize = sl.finalize := by
  have habsorb := sl.absorb_withLStateTotal (padding sl.var sl.total) l sl.total
  simp only [Slot.finalize, habsorb, Slot.absorb_total]

/-- The one-shot digest is that of a fresh context finalized after one update by the message (40 R141). -/
theorem digest_eq_finalize_update (v : Variant) (m : List Byte) :
    digest v m = ((Slot.fresh v).update m).finalize.digestBytes := by
  have hupdate : (Slot.fresh v).update m =
      { (Slot.fresh v).absorb m with total := BitVec.ofNat 64 m.length, lstate := .absorbing } := by
    rw [← BitVec.zero_add (BitVec.ofNat 64 m.length)]; rfl
  rw [hupdate]
  exact congrArg Slot.digestBytes
    (Slot.finalize_withLState { (Slot.fresh v).absorb m with total := BitVec.ofNat 64 m.length } .absorbing).symm

/-! ### Commands -/

section
variable {s t : State} {c : BitVec 4} {sl : Slot}

/-- The slot after a CTX_INIT of it, if there is one, is a fresh context (40 R150). -/
theorem slot?_of_exec_ctxInit {v : Variant} (ran : exec (.ctxInit c v) s = .next t) (left : t.slot? c = some sl) :
    sl = Slot.fresh v := by
  cases hnamed : s.slot? c with
  | none =>
    obtain rfl : s.illegal = t := by simpa [exec, execCtxInit, hnamed] using ran
    exact nomatch hnamed.symm.trans left
  | some old =>
    obtain rfl := Host.Outcome.next.inj ((exec_ctxInit_of_named hnamed v).symm.trans ran)
    exact Option.some_inj.1 (left.symm.trans (State.slot?_setSlot_same hnamed))

/-- OK alone has the code 0 (60 R270). -/
theorem statusCode_eq_zero_iff {code : Status} : statusCode code = 0x00 ↔ code = .ok := by
  cases code <;> decide

/-- A CTX_UPDATE that ends with status OK found a live slot and updated it by its source (40 R151). -/
theorem slot?_of_exec_ctxUpdate_ok {m : List Byte} (ran : exec (.ctxUpdate c) s = .next t) (ok : t.err = 0x00)
    (here : s.slot? c = some sl) (piece : s.sourceBytes = some m) : t.slot? c = some (sl.update m) := by
  have hend : CommandEnd (.ctxUpdate c) s (.next t) := ran ▸ exec_end _ s
  cases hend with
  | failed code info listed noInfo notOk => exact absurd (statusCode_eq_zero_iff.1 ok) notOk
  | stored out ver hasDest => exact nomatch hasDest
  | created c' v sl' named which => exact nomatch which
  | updated c' sl' m' named which live source =>
    cases which
    obtain rfl := Option.some_inj.1 (here.symm.trans named)
    obtain rfl := Option.some_inj.1 (piece.symm.trans source)
    exact State.slot?_setSlot_same here
  | finalized c' sl' named which => exact nomatch which

/-- A stream updates the slot by the concatenation of its pieces, but for LSTATE, which an empty stream leaves. -/
theorem Streamed.last_eq {last : Slot} {pieces : List (List Byte)} (h : Streamed c sl pieces last) :
    last = { sl.update pieces.flatten with lstate := last.lstate } := by
  induction h with
  | nil sl => simp [Slot.update]
  | cons here piece ran ok left more ih =>
    obtain rfl := Option.some_inj.1 (left.symm.trans (slot?_of_exec_ctxUpdate_ok ran ok here piece))
    rwa [Slot.update_update] at ih

/-- A stream leaves a live slot live. -/
theorem Streamed.live {last : Slot} {pieces : List (List Byte)} (h : Streamed c sl pieces last)
    (live : sl.lstate = .init ∨ sl.lstate = .absorbing) : last.lstate = .init ∨ last.lstate = .absorbing := by
  induction h with
  | nil sl => exact live
  | cons here piece ran ok left more ih =>
    obtain rfl := Option.some_inj.1 (left.symm.trans (slot?_of_exec_ctxUpdate_ok ran ok here piece))
    exact ih (.inr rfl)

end

/-- Settles O55: the stream's context is, to finalization, that of one update by the whole message. -/
theorem streamedDigestIsTheOneShotDigest : Obligations.StreamedDigestIsTheOneShotDigest := by
  unfold Obligations.StreamedDigestIsTheOneShotDigest
  intro c v s0 t0 s1 first last pieces init hfirst stream hlast dest fits
  obtain rfl := slot?_of_exec_ctxInit init hfirst
  have hvar : last.var = v := by rw [stream.last_eq]; simp [Slot.update, Slot.fresh]
  have hdigest : last.finalize.digestBytes = digest v pieces.flatten := by
    rw [stream.last_eq, Slot.finalize_withLState, digest_eq_finalize_update]
  have hfinal := exec_ctxFinal_of_live hlast (stream.live (.inl rfl)) dest (hvar ▸ fits)
  rw [hdigest] at hfinal
  exact ⟨_, hfinal, rfl, congrArg (BitVec.ofNat 32) (length_digest v _), rfl⟩

end Sys2Proof.Machine
end

section
/-! What a live context holds (40 R144): the full blocks of the bytes absorbed, compressed in turn, and the rest of the
bytes in BUF. -/

namespace Sys2Proof.Machine

/-! ### Blocks -/

/-- The bytes of a message after its full blocks (40 R144). -/
def restBytes (m : List Byte) : List Byte := m.drop (64 * (m.length / 64))

theorem length_restBytes (m : List Byte) : (restBytes m).length = m.length % 64 := by
  simp only [restBytes, List.length_drop]
  omega

/-- A full block of a message stays where it is when the message grows. -/
theorem block_append (m n : List Byte) {k : Nat} (h : k < m.length / 64) :
    ((m ++ n).drop (64 * k)).take 64 = (m.drop (64 * k)).take 64 := by
  rw [List.drop_append_of_le_length (by omega), List.take_append_of_le_length (by simp only [List.length_drop]; omega)]

/-- A byte that fills no block. -/
theorem fullBlocks_concat_of_lt {m : List Byte} (b : Byte) (h : m.length % 64 < 63) :
    fullBlocks (m ++ [b]) = fullBlocks m ∧ restBytes (m ++ [b]) = restBytes m ++ [b] := by
  have hcount : (m ++ [b]).length / 64 = m.length / 64 := by
    simp only [List.length_append, List.length_singleton]; omega
  constructor
  · unfold fullBlocks
    rw [hcount]
    exact List.map_congr_left fun k hk => block_append m [b] (List.mem_range.1 hk)
  · unfold restBytes
    rw [hcount, List.drop_append_of_le_length (by omega)]

/-- A byte that fills a block. -/
theorem fullBlocks_concat_of_eq {m : List Byte} (b : Byte) (h : m.length % 64 = 63) :
    fullBlocks (m ++ [b]) = fullBlocks m ++ [restBytes m ++ [b]] ∧ restBytes (m ++ [b]) = [] := by
  have hcount : (m ++ [b]).length / 64 = m.length / 64 + 1 := by
    simp only [List.length_append, List.length_singleton]; omega
  constructor
  · unfold fullBlocks
    rw [hcount, List.range_succ, List.map_append, List.map_singleton,
      List.drop_append_of_le_length (by omega), ← restBytes, List.take_of_length_le]
    · congr 1
      exact List.map_congr_left fun k hk => block_append m [b] (List.mem_range.1 hk)
    · simp only [List.length_append, length_restBytes, List.length_singleton]; omega
  · apply List.eq_nil_of_length_eq_zero
    simp only [length_restBytes, List.length_append, List.length_singleton]
    omega

/-! ### Absorbing -/

/-- The byte that fills BUF: the block is compressed (40 R140). -/
theorem Slot.absorbByte_of_full {sl : Slot} (b : Byte) (full : sl.buflen = 63) :
    sl.absorbByte b = { sl with
      buf := sl.buf.set sl.buflen.val b sl.buflen.isLt
      buflen := 0
      h := compress sl.var sl.h (sl.buf.set sl.buflen.val b sl.buflen.isLt).toList } := if_pos full

/-- Any other byte is kept in BUF (40 R140). -/
theorem Slot.absorbByte_of_not_full {sl : Slot} (b : Byte) (room : sl.buflen ≠ 63) :
    sl.absorbByte b = { sl with
      buf := sl.buf.set sl.buflen.val b sl.buflen.isLt
      buflen := sl.buflen + 1 } := if_neg room

/-- A context of variant `v` that holds the message `m` (40 R144). -/
structure Slot.Holds (sl : Slot) (v : Variant) (m : List Byte) : Prop where
  var : sl.var = v
  h : sl.h = (fullBlocks m).foldl (compress v) (initialValue v)
  buflen : sl.buflen.val = m.length % 64
  buf : sl.buf.toList.take (m.length % 64) = restBytes m

/-- A fresh context holds the empty message (40 R150). -/
theorem Slot.holds_fresh (v : Variant) : (Slot.fresh v).Holds v [] where
  var := rfl
  h := rfl
  buflen := rfl
  buf := rfl

/-- The byte that is absorbed stands in BUF after the valid ones (40 R140). -/
theorem Slot.Holds.take_buf_set {sl : Slot} {v : Variant} {m : List Byte} (holds : sl.Holds v m) (b : Byte) :
    (sl.buf.set sl.buflen.val b sl.buflen.isLt).toList.take (sl.buflen.val + 1) = restBytes m ++ [b] := by
  rw [List.take_succ_eq_append_getElem (by simp)]
  simp [Vector.toList_set, List.take_set_of_le, holds.buflen, holds.buf]

/-- One byte more (40 R140, R144). -/
theorem Slot.Holds.absorbByte {sl : Slot} {v : Variant} {m : List Byte} (holds : sl.Holds v m) (b : Byte) :
    (sl.absorbByte b).Holds v (m ++ [b]) := by
  have hset := holds.take_buf_set b
  have hvar : (sl.absorbByte b).var = v := (sl.absorbByte_var b).trans holds.var
  have hcount : (sl.absorbByte b).buflen.val = (m ++ [b]).length % 64 := by
    rw [Slot.absorbByte_buflen, holds.buflen, List.length_append, List.length_singleton]; omega
  by_cases hfull : sl.buflen = 63
  · have h63 : sl.buflen.val = 63 := congrArg Fin.val hfull
    obtain ⟨hblocks, hrest⟩ := fullBlocks_concat_of_eq b (holds.buflen.symm.trans h63)
    have hblock : (sl.buf.set sl.buflen.val b sl.buflen.isLt).toList = restBytes m ++ [b] := by
      rw [← hset, List.take_of_length_le (by simp [h63])]
    refine ⟨hvar, ?_, hcount, ?_⟩
    · rw [Slot.absorbByte_of_full b hfull, hblocks, List.foldl_concat, ← hblock, ← holds.h, holds.var]
    · rw [hrest, ← hcount, Slot.absorbByte_of_full b hfull]; rfl
  · have hlt : sl.buflen.val < 63 := by have := sl.buflen.isLt; omega
    obtain ⟨hblocks, hrest⟩ := fullBlocks_concat_of_lt b (holds.buflen ▸ hlt)
    refine ⟨hvar, ?_, hcount, ?_⟩
    · rw [Slot.absorbByte_of_not_full b hfull, hblocks, ← holds.h]
    · rw [hrest, ← hcount, Slot.absorbByte_buflen, Nat.mod_eq_of_lt (by omega), Slot.absorbByte_of_not_full b hfull,
        hset]

/-- A byte string more. -/
theorem Slot.Holds.absorb {sl : Slot} {v : Variant} {m : List Byte} (holds : sl.Holds v m) (n : List Byte) :
    (sl.absorb n).Holds v (m ++ n) := by
  induction n generalizing sl m with
  | nil => simpa using holds
  | cons b n ih => simpa using ih (holds.absorbByte b)

/-- Settles O56: the stream's context is a fresh one that has absorbed the message, but for TOTAL and LSTATE. -/
theorem liveContextHoldsTheFullBlocks : Obligations.LiveContextHoldsTheFullBlocks := by
  unfold Obligations.LiveContextHoldsTheFullBlocks
  intro c v s0 t0 first last pieces init hfirst stream
  obtain rfl := slot?_of_exec_ctxInit init hfirst
  have holds : ((Slot.fresh v).absorb pieces.flatten).Holds v pieces.flatten :=
    (Slot.holds_fresh v).absorb pieces.flatten
  rw [stream.last_eq]
  exact ⟨holds.var, holds.h, holds.buflen, holds.buf, BitVec.zero_add _⟩

end Sys2Proof.Machine
end

section
/-! HMAC, where the operand checks pass (41 R182, R183). -/

namespace Sys2Proof.Machine

/-! ### The key -/

/-- A key that a block can hold is used as it is. -/
theorem macKey_of_le (v : MacVariant) {key : List Byte} (short : key.length ≤ 64) :
    macKey v key = key ++ List.replicate (64 - key.length) 0 := by
  simp only [macKey, if_neg (Nat.not_lt.2 short)]

/-- A longer key is replaced by its digest. -/
theorem macKey_of_lt (v : MacVariant) {key : List Byte} (long : 64 < key.length) :
    macKey v key =
      digest (macDigest v) key ++ List.replicate (64 - digestLen (macDigest v)) 0 := by
  simp only [macKey, if_pos long, length_digest]

/-- K0 is one block, since a digest is shorter than a block. -/
@[simp] theorem length_macKey (v : MacVariant) (key : List Byte) : (macKey v key).length = 64 := by
  rcases Nat.lt_or_ge 64 key.length with long | short
  · have hlen := digestLen_le (macDigest v)
    rw [macKey_of_lt v long, List.length_append, length_digest, List.length_replicate]
    omega
  · rw [macKey_of_le v short, List.length_append, List.length_replicate]
    omega

/-! ### The command -/

/-- The MAC is a digest, so it has DLEN bytes (41 R182). -/
@[simp] theorem length_hmac (v : MacVariant) (key msg : List Byte) :
    (hmac v key msg).length = digestLen (macDigest v) := length_digest _ _

/-- HMAC with its three regions in DMEM and both operands written goes on to compute (41 R183). -/
theorem exec_hmac_of_inside {s : State} {key msg : List Byte} (keyInside : s.KeyInside) (source : s.SourceInside)
    (dest : s.DestInside) (keyBytes : s.keyBytes = some key) (bytes : s.sourceBytes = some msg) (v : MacVariant) :
    exec (.hmac v) s = .next (s.succeed (hmac v key msg) 0) := by
  simp [exec, execHmac, (keyInRange_iff s).2 keyInside, (sourceInRange_iff s).2 source, (destInRange_iff s).2 dest,
    keyBytes, bytes, withBytes, State.finish]

/-- Settles O34: K0 is `macKey`, and the MAC has DLEN bytes, which fit or not. -/
theorem hmacWritesTheMac : Obligations.HmacWritesTheMac := by
  unfold Obligations.HmacWritesTheMac
  intro v d s key msg hvd keyInside source dest keyBytes bytes
  obtain rfl : d = macDigest v := by
    simp only [List.mem_cons, Prod.mk.injEq, List.not_mem_nil, or_false] at hvd
    obtain ⟨rfl, rfl⟩ | ⟨rfl, rfl⟩ := hvd <;> rfl
  rw [exec_hmac_of_inside keyInside source dest keyBytes bytes]
  refine ⟨fun fits => ⟨macKey v key, length_macKey v key, macKey_of_le v, macKey_of_lt v, ?_⟩, fun overflow => ?_⟩
  · rw [State.succeed_eq_afterOk ((length_hmac v key msg).trans_le fits), hmac]
  · rw [State.succeed_eq_afterError (overflow.trans_eq (length_hmac v key msg).symm)]

end Sys2Proof.Machine
end

section
/-! Base58 and Base58Check: the laws of the codec (43 R223, R233), and what its commands complete with where the operand
checks pass (43 R240 to R243). -/

namespace Sys2Proof.Machine

/-! ### Numerals with leading zero digits -/

/-- A byte string is its leading zero digits and a rest that does not start with one. -/
theorem exists_replicate_leading_append (zero : Byte) (s : List Byte) :
    ∃ rest, List.replicate (leading zero s) zero ++ rest = s ∧ rest.head? ≠ some zero := by
  have hzeros : s.takeWhile (· == zero) = List.replicate (leading zero s) zero :=
    List.eq_replicate_iff.2 ⟨rfl, fun ch hch => by simpa using List.mem_takeWhile_imp hch⟩
  refine ⟨s.dropWhile (· == zero), hzeros ▸ List.takeWhile_append_dropWhile, fun hhead => ?_⟩
  simpa [hhead] using List.head?_dropWhile_not (· == zero) s

theorem leading_replicate_append (zero : Byte) (n : Nat) {rest : List Byte} (h : rest.head? ≠ some zero) :
    leading zero (List.replicate n zero ++ rest) = n := by
  induction n with
  | zero =>
    cases rest with
    | nil => rfl
    | cons ch rest =>
      have hne : ch ≠ zero := by simpa using h
      simp [leading, hne]
  | succ n ih => simpa [leading, List.replicate_succ] using ih

/-- The number that a byte string writes in a base, most significant digit first: `beNat` and `base58Nat` are its two
uses in 43 R221 and R222. -/
def numeral (base : Nat) (digit : Byte → Nat) (s : List Byte) : Nat :=
  s.foldl (fun n ch => n * base + digit ch) 0

theorem beNat_eq_numeral (b : List Byte) : beNat b = numeral 256 BitVec.toNat b := rfl

theorem base58Nat_eq_numeral (s : List Byte) : base58Nat s = numeral 58 digitValue s := rfl

section
variable {base : Nat} {digit : Byte → Nat} {zero : Byte}

theorem numeral_eq_ofDigits (s : List Byte) : numeral base digit s = Nat.ofDigits base (s.map digit).reverse := by
  rw [Nat.ofDigits_eq_foldr, List.foldr_reverse, List.foldl_map, numeral]
  simp only [Nat.cast_id, Nat.add_comm, Nat.mul_comm]

theorem numeral_replicate_append (hzero : digit zero = 0) (n : Nat) (rest : List Byte) :
    numeral base digit (List.replicate n zero ++ rest) = numeral base digit rest := by
  induction n with
  | zero => rfl
  | succ n ih => simpa [numeral, List.replicate_succ, hzero] using ih

/-- A numeral that does not start with the digit 0 has the digits of its number. -/
theorem digits_numeral (hbase : 1 < base) {s : List Byte} (hdigit : ∀ ch ∈ s, digit ch < base)
    (hhead : ∀ ch ∈ s.head?, digit ch ≠ 0) : Nat.digits base (numeral base digit s) = (s.map digit).reverse := by
  rw [numeral_eq_ofDigits]
  refine Nat.digits_ofDigits base hbase _ (by simpa using hdigit) fun hne => ?_
  cases s with
  | nil => exact absurd rfl hne
  | cons ch rest => simpa using hhead ch rfl

/-- Where `char` takes a digit's value back to its character, a numeral is its leading zero digits and the digits of its
number. -/
theorem eq_replicate_append_digits {char : Nat → Byte} (hbase : 1 < base)
    (hchar : ∀ ch, digit ch < base → char (digit ch) = ch) (hzero : digit zero = 0) {s : List Byte}
    (hdigit : ∀ ch ∈ s, digit ch < base) :
    s = List.replicate (leading zero s) zero ++ (Nat.digits base (numeral base digit s)).reverse.map char := by
  obtain ⟨rest, hs, hhead⟩ := exists_replicate_leading_append zero s
  have hnum : numeral base digit s = numeral base digit rest := hs ▸ numeral_replicate_append hzero _ rest
  have hrest : ∀ ch ∈ rest, digit ch < base := fun ch hch => hdigit ch (hs ▸ List.mem_append_right _ hch)
  have hhead' : ∀ ch ∈ rest.head?, digit ch ≠ 0 := by
    intro ch hch hch0
    have hzero' : ch = zero := calc
      ch = char (digit ch) := (hchar ch (hrest ch (List.mem_of_mem_head? hch))).symm
      _ = char (digit zero) := by rw [hch0, hzero]
      _ = zero := hchar zero (by omega)
    exact hhead (hzero' ▸ hch)
  have hback : (rest.map digit).map char = rest := by
    rw [List.map_map]
    exact (List.map_congr_left fun ch hch => hchar ch (hrest ch hch)).trans rest.map_id
  rw [hnum, digits_numeral hbase hrest hhead', List.reverse_reverse, hback, hs]

/-- So a numeral is determined by its number and its number of leading zero digits. -/
theorem eq_of_leading_eq_of_numeral_eq (char : Nat → Byte) (hbase : 1 < base)
    (hchar : ∀ ch, digit ch < base → char (digit ch) = ch) (hzero : digit zero = 0) {s t : List Byte}
    (hs : ∀ ch ∈ s, digit ch < base) (ht : ∀ ch ∈ t, digit ch < base)
    (hlead : leading zero s = leading zero t) (hnum : numeral base digit s = numeral base digit t) : s = t := by
  rw [eq_replicate_append_digits hbase hchar hzero hs, eq_replicate_append_digits hbase hchar hzero ht, hlead, hnum]

end

theorem eq_of_leading_eq_of_beNat_eq {b c : List Byte} (hlead : leading 0 b = leading 0 c)
    (hnum : beNat b = beNat c) : b = c := by
  rw [beNat_eq_numeral, beNat_eq_numeral] at hnum
  exact eq_of_leading_eq_of_numeral_eq (BitVec.ofNat 8) (by decide)
    (fun x _ => (BitVec.ofNat_toNat 8 x).trans x.setWidth_eq) rfl (fun x _ => x.isLt) (fun x _ => x.isLt) hlead hnum

theorem inAlphabet_iff_mem (ch : Byte) : inAlphabet ch = true ↔ ch ∈ alphabet := List.contains_iff_mem

theorem inAlphabet_iff_digitValue_lt (ch : Byte) : inAlphabet ch = true ↔ digitValue ch < 58 :=
  (inAlphabet_iff_mem ch).trans List.idxOf_lt_length_iff.symm

theorem eq_of_leading_eq_of_base58Nat_eq {s t : List Byte} (hs : ∀ ch ∈ s, inAlphabet ch = true)
    (ht : ∀ ch ∈ t, inAlphabet ch = true) (hlead : leading zeroChar s = leading zeroChar t)
    (hnum : base58Nat s = base58Nat t) : s = t := by
  rw [base58Nat_eq_numeral, base58Nat_eq_numeral] at hnum
  exact eq_of_leading_eq_of_numeral_eq (fun v => alphabet.getD v 0) (by decide)
    (fun ch hch => (alphabet_digitValue ch ((inAlphabet_iff_digitValue_lt ch).2 hch)).2) (by decide)
    (fun ch hch => (alphabet_digitValue ch (hs ch hch)).1) (fun ch hch => (alphabet_digitValue ch (ht ch hch)).1)
    hlead hnum

/-! ### Base58 -/

theorem zeroChar_inAlphabet : inAlphabet zeroChar = true := by decide

/-- Encoding writes alphabet characters only (43 R221). -/
theorem inAlphabet_of_mem_b58Encode {b : List Byte} {ch : Byte} (h : ch ∈ b58Encode b) : inAlphabet ch = true := by
  obtain ⟨-, halpha, -⟩ := base58Digits_spec (2 * b.length) (beNat b) (beNat_lt_fuel b)
  rcases List.mem_append.1 h with hzero | hdigit
  · rw [List.eq_of_mem_replicate hzero]; exact zeroChar_inAlphabet
  · exact halpha ch hdigit

/-- Encoding keeps the number of leading zeros: no digit of the loop's output is a leading `1` (43 R221). -/
theorem leading_b58Encode (b : List Byte) : leading zeroChar (b58Encode b) = leading 0 b := by
  obtain ⟨-, -, hhead⟩ := base58Digits_spec (2 * b.length) (beNat b) (beNat_lt_fuel b)
  exact leading_replicate_append _ _ hhead

/-- Encoding keeps the number (43 R221). -/
theorem base58Nat_b58Encode (b : List Byte) : base58Nat (b58Encode b) = beNat b := by
  obtain ⟨hnum, -, -⟩ := base58Digits_spec (2 * b.length) (beNat b) (beNat_lt_fuel b)
  rw [base58Nat_eq_numeral, b58Encode, numeral_replicate_append (by decide), ← base58Nat_eq_numeral, hnum]

/-- Decoding an alphabet string gives its leading zeros and the bytes of its number, no zero byte first (43 R222). -/
theorem b58Decode_of_inAlphabet {s : List Byte} (hs : ∀ ch ∈ s, inAlphabet ch = true) :
    ∃ body, b58Decode s = .ok (List.replicate (leading zeroChar s) 0 ++ body) ∧ beNat body = base58Nat s ∧
      body.head? ≠ some 0 :=
  ⟨bigEndianBytes s.length (base58Nat s) [], by rw [b58Decode, (firstInvalid_eq_none_iff 0 s).2 hs],
    bigEndianBytes_spec _ _ (base58Nat_lt_fuel s hs)⟩

/-- Decoding keeps the leading zeros and the number of an alphabet string (43 R222). -/
theorem exists_b58Decode_eq_ok {s : List Byte} (hs : ∀ ch ∈ s, inAlphabet ch = true) :
    ∃ b, b58Decode s = .ok b ∧ leading 0 b = leading zeroChar s ∧ beNat b = base58Nat s := by
  obtain ⟨body, hdecode, hnum, hhead⟩ := b58Decode_of_inAlphabet hs
  refine ⟨_, hdecode, leading_replicate_append _ _ hhead, ?_⟩
  rw [beNat_eq_numeral, numeral_replicate_append rfl, ← beNat_eq_numeral, hnum]

theorem b58Decode_b58Encode (b : List Byte) : b58Decode (b58Encode b) = .ok b := by
  obtain ⟨c, hdecode, hlead, hnum⟩ := exists_b58Decode_eq_ok (s := b58Encode b) fun _ => inAlphabet_of_mem_b58Encode
  rw [leading_b58Encode] at hlead
  rw [base58Nat_b58Encode] at hnum
  rw [hdecode, eq_of_leading_eq_of_beNat_eq hlead hnum]

theorem exists_b58Decode_eq_ok_and_b58Encode_eq {s : List Byte} (hs : ∀ ch ∈ s, inAlphabet ch = true) :
    ∃ b, b58Decode s = .ok b ∧ b58Encode b = s := by
  obtain ⟨b, hdecode, hlead, hnum⟩ := exists_b58Decode_eq_ok hs
  rw [← leading_b58Encode] at hlead
  rw [← base58Nat_b58Encode] at hnum
  exact ⟨b, hdecode, eq_of_leading_eq_of_base58Nat_eq (fun _ => inAlphabet_of_mem_b58Encode) hs hlead hnum⟩

/-- Settles O57: both directions keep the leading zeros and the number, which determine a string. -/
theorem base58Laws : Obligations.Base58Laws := by
  unfold Obligations.Base58Laws
  exact ⟨b58Decode_b58Encode,
    fun s hs => exists_b58Decode_eq_ok_and_b58Encode_eq fun ch hch => (inAlphabet_iff_mem ch).2 (hs ch hch),
    leading_b58Encode⟩

/-! ### Base58Check -/

@[simp] theorem length_checksum (data : List Byte) : (checksum data).length = 4 := by
  simp [checksum, sha256d, digestLen]

theorem b58CheckDecode_of_short {s b : List Byte} (hdecode : b58Decode s = .ok b) (short : b.length < 5) :
    b58CheckDecode s = .error .tooShort := by
  simp only [b58CheckDecode, hdecode, if_pos short]

/-- Five decoded bytes or more are a version byte, a payload and a checksum of four bytes (43 R232). -/
theorem b58CheckDecode_of_parts {s payload cs : List Byte} {ver : Byte}
    (hdecode : b58Decode s = .ok (ver :: payload ++ cs)) (hcs : cs.length = 4) :
    b58CheckDecode s =
      if checksum (ver :: payload) ≠ cs then .error .checksumMismatch else .ok (ver, payload) := by
  have hlen : (ver :: payload ++ cs).length - 4 = (ver :: payload).length := by simp [hcs]
  have long : ¬ (ver :: payload ++ cs).length < 5 := by simp [hcs]
  simp only [b58CheckDecode, hdecode, if_neg long, hlen, List.take_left, List.drop_left, List.headD_cons,
    List.drop_succ_cons, List.drop_zero]

/-- Settles O58: the decoded parts are the version byte, the payload and their checksum. -/
theorem base58CheckDecodeUndoesEncode : Obligations.Base58CheckDecodeUndoesEncode := by
  unfold Obligations.Base58CheckDecodeUndoesEncode
  intro ver payload
  exact (b58CheckDecode_of_parts (b58Decode_b58Encode _) (length_checksum _)).trans (if_neg (not_not.2 rfl))

/-! ### The commands -/

/-- A command that comes to an output ends by whether the output fits (60 R274). -/
theorem completion_of_succeed {o : Host.Outcome State Fault Refusal} {s : State} {out : List Byte} {ver : Byte}
    (h : o = .next (s.succeed out ver)) :
    (out.length ≤ s.dstCap.toNat → o = .next (s.afterOk out ver)) ∧
    (s.dstCap.toNat < out.length → o = .next (s.afterError 0x12 0)) :=
  ⟨fun fits => by rw [h, State.succeed_eq_afterOk fits],
    fun overflow => by rw [h, State.succeed_eq_afterError overflow]⟩

section
variable {s : State} {m : List Byte} (source : s.SourceInside) (dest : s.DestInside) (bytes : s.sourceBytes = some m)
include source dest bytes

theorem exec_b58Enc_of_inside : exec .b58Enc s = .next (s.succeed (b58Encode m) 0) :=
  State.oneShot_of_inside source dest bytes _

theorem exec_b58cEnc_of_inside (ver : Byte) :
    exec (.b58cEnc ver) s = .next (s.succeed (b58CheckEncode ver m) ver) :=
  State.oneShot_of_inside source dest bytes _

theorem exec_b58Dec_of_decoded {b : List Byte} (hdecode : b58Decode m = .ok b) :
    exec .b58Dec s = .next (s.succeed b 0) :=
  (State.oneShot_of_inside source dest bytes _).trans (by simp only [hdecode, State.finish])

theorem exec_b58cDec_of_decoded {ver : Byte} {payload : List Byte} (hdecode : b58CheckDecode m = .ok (ver, payload)) :
    exec .b58cDec s = .next (s.succeed payload ver) :=
  (State.oneShot_of_inside source dest bytes _).trans (by simp only [hdecode, State.finish])

theorem exec_b58cDec_of_error {e : CodecError} (hdecode : b58CheckDecode m = .error e) :
    exec .b58cDec s = .next (s.finish (codecFailure e)) :=
  (State.oneShot_of_inside source dest bytes _).trans (by simp only [hdecode])

end

/-- Settles O35: the checksum of 43 R230 is the first four bytes of the double digest. -/
theorem base58EncodersWriteTheString : Obligations.Base58EncodersWriteTheString := by
  unfold Obligations.Base58EncodersWriteTheString
  intro i out ver s b source dest bytes hi
  obtain ⟨rfl, rfl, rfl⟩ | ⟨rfl, rfl⟩ := hi
  · exact completion_of_succeed (exec_b58Enc_of_inside source dest bytes)
  · exact completion_of_succeed (exec_b58cEnc_of_inside source dest bytes ver)

/-- Settles O36: the body is what follows the leading zeros of the decoded bytes. -/
theorem base58DecodeWritesTheBytes : Obligations.Base58DecodeWritesTheBytes := by
  unfold Obligations.Base58DecodeWritesTheBytes
  intro s str source dest bytes halpha
  obtain ⟨body, hdecode, hnum, hhead⟩ :=
    b58Decode_of_inAlphabet fun ch hch => (inAlphabet_iff_mem ch).2 (halpha ch hch)
  have hend := completion_of_succeed (exec_b58Dec_of_decoded source dest bytes hdecode)
  rw [List.length_append, List.length_replicate] at hend
  exact ⟨body, hnum, hhead, hend⟩

/-- Settles O38, by the order of the checks: length, checksum, capacity. -/
theorem base58CheckDecodeChecksThenWrites : Obligations.Base58CheckDecodeChecksThenWrites := by
  unfold Obligations.Base58CheckDecodeChecksThenWrites
  intro s str b source dest bytes hdecode
  refine ⟨fun short => exec_b58cDec_of_error source dest bytes (b58CheckDecode_of_short hdecode short), ?_⟩
  rintro ver payload cs rfl hcs
  have hparts := b58CheckDecode_of_parts hdecode hcs
  refine ⟨fun mismatch => ?_, fun hmatch => ?_⟩
  · exact exec_b58cDec_of_error source dest bytes (hparts.trans (if_pos (Ne.symm mismatch)))
  · have hok := hparts.trans (if_neg (not_not.2 hmatch.symm))
    exact completion_of_succeed (exec_b58cDec_of_decoded source dest bytes hok)

end Sys2Proof.Machine
end

section
/-! Address derivation (44 R250 to R261): how long a Base58 string can be and what it begins with, and what the two
commands complete with where the operand checks pass. -/

namespace Sys2Proof.Machine

/-! ### The digits of a Base58 string -/

/-- Encoding writes the leading zeros, then the base-58 digits of the number, most significant first (43 R221). -/
theorem b58Encode_eq_digits (b : List Byte) :
    b58Encode b = List.replicate (leading 0 b) zeroChar ++
      (Nat.digits 58 (beNat b)).reverse.map fun v => alphabet.getD v 0 := by
  have hdigit : ∀ ch ∈ b58Encode b, digitValue ch < 58 := fun ch hch =>
    (inAlphabet_iff_digitValue_lt ch).1 (inAlphabet_of_mem_b58Encode hch)
  have hsplit := eq_replicate_append_digits (zero := zeroChar) (char := fun v => alphabet.getD v 0) (by decide)
    (fun ch hch => (alphabet_digitValue ch ((inAlphabet_iff_digitValue_lt ch).2 hch)).2) (by decide) hdigit
  rwa [← base58Nat_eq_numeral, base58Nat_b58Encode, leading_b58Encode] at hsplit

theorem b58Encode_zero_cons (b : List Byte) : b58Encode (0 :: b) = zeroChar :: b58Encode b := by
  have hlead : leading 0 (0 :: b) = leading 0 b + 1 := by simp [leading]
  have hnum : beNat (0 :: b) = beNat b := numeral_replicate_append (digit := BitVec.toNat) rfl 1 b
  rw [b58Encode_eq_digits, b58Encode_eq_digits, hlead, hnum, List.replicate_succ, List.cons_append]

theorem b58Encode_cons_of_ne_zero {x : Byte} (hx : x ≠ 0) (b : List Byte) :
    b58Encode (x :: b) = (Nat.digits 58 (beNat (x :: b))).reverse.map fun v => alphabet.getD v 0 := by
  have hlead : leading 0 (x :: b) = 0 := by simpa [leading] using hx
  rw [b58Encode_eq_digits, hlead, List.replicate_zero, List.nil_append]

/-- Without a leading zero byte the string is as long as its number needs. -/
theorem length_b58Encode_cons_le_iff {x : Byte} (hx : x ≠ 0) (b : List Byte) {n : Nat} :
    (b58Encode (x :: b)).length ≤ n ↔ beNat (x :: b) < 58 ^ n := by
  rw [b58Encode_cons_of_ne_zero hx, List.length_map, List.length_reverse, Nat.digits_length_le_iff (by decide)]

/-- A string of n characters is long enough for bytes that write fewer numbers than n digits do: a leading zero byte,
which takes a whole character, leaves fewer numbers by the factor 256. -/
theorem length_b58Encode_le {b : List Byte} {n : Nat} (h : 256 ^ b.length ≤ 58 ^ n) : (b58Encode b).length ≤ n := by
  induction b generalizing n with
  | nil => exact Nat.zero_le n
  | cons x b ih =>
    by_cases hx : x = 0
    · subst hx
      have hpos : 0 < 256 ^ b.length := by positivity
      rw [List.length_cons, pow_succ] at h
      cases n with
      | zero => omega
      | succ n =>
        rw [pow_succ] at h
        rw [b58Encode_zero_cons]
        exact Nat.succ_le_succ (ih (by omega))
    · exact (length_b58Encode_cons_le_iff hx b).2 ((beNat_lt _).trans_le h)

theorem beNat_cons (x : Byte) (b : List Byte) : beNat (x :: b) = x.toNat * 256 ^ b.length + beNat b := by
  simp only [beNat_eq_numeral, numeral_eq_ofDigits, List.map_cons, List.reverse_cons, Nat.ofDigits_append,
    Nat.ofDigits_singleton, List.length_reverse, List.length_map]
  rw [Nat.add_comm, Nat.mul_comm]

/-- The first digit of a number that lies between two neighbouring multiples of a power of the base. -/
theorem head?_reverse_digits {base n d k : Nat} (hd : 0 < d) (hbase : d < base) (low : d * base ^ k ≤ n)
    (high : n < (d + 1) * base ^ k) : (Nat.digits base n).reverse.head? = some d := by
  have hone : 1 < base := by omega
  have hlen : (Nat.digits base n).length = k + 1 := by
    have hle : (Nat.digits base n).length ≤ k + 1 := by
      refine (Nat.digits_length_le_iff hone n).2 (high.trans_le ?_)
      rw [pow_succ, Nat.mul_comm]
      exact Nat.mul_le_mul_left _ hbase
    have hlt : k < (Nat.digits base n).length :=
      (Nat.lt_digits_length_iff hone n).2 ((Nat.le_mul_of_pos_left _ hd).trans low)
    omega
  have hlast : (Nat.digits base n).getD k 0 = d := by
    rw [Nat.getD_digits n k hone, Nat.div_eq_of_lt_le low high, Nat.mod_eq_of_lt hbase]
  have hk : k < (Nat.digits base n).length := by omega
  rw [List.getD_eq_getElem _ _ hk] at hlast
  rw [List.head?_reverse, List.getLast?_eq_getElem?, hlen, Nat.add_sub_cancel, List.getElem?_eq_getElem hk, hlast]

/-! ### Addresses -/

section
variable {ver : Byte} {payload : List Byte} (h20 : payload.length = 20)
include h20

/-- Under the version byte of an address stand 24 bytes: the payload and its checksum. -/
theorem length_payload_append_checksum : (payload ++ checksum (ver :: payload)).length = 24 := by
  rw [List.length_append, h20, length_checksum]

/-- An address has at most 34 characters: with version 0 because 256²⁴ ≤ 58³³, with another one up to 111 because
112 · 256²⁴ ≤ 58³⁴ (44 R260, R261). -/
theorem length_b58CheckEncode_le (hver : ver.toNat ≤ 111) : (b58CheckEncode ver payload).length ≤ 34 := by
  have hlen := length_payload_append_checksum (ver := ver) h20
  rw [b58CheckEncode, List.cons_append]
  by_cases hzero : ver = 0
  · subst hzero
    rw [b58Encode_zero_cons]
    exact Nat.succ_le_succ (length_b58Encode_le (by rw [hlen]; decide))
  · have hrest := beNat_lt (payload ++ checksum (ver :: payload))
    refine (length_b58Encode_cons_le_iff hzero _).2 ?_
    rw [beNat_cons]
    rw [hlen] at hrest ⊢
    omega

/-- A P2SH address begins with `3`, the digit 2: its number lies between 2 · 58³³ and 3 · 58³³ (44 R261). -/
theorem head?_b58CheckEncode_p2sh : (b58CheckEncode p2shVersion payload).head? = some 0x33 := by
  have hlen := length_payload_append_checksum (ver := p2shVersion) h20
  have hrest := beNat_lt (payload ++ checksum (p2shVersion :: payload))
  have hnum := beNat_cons p2shVersion (payload ++ checksum (p2shVersion :: payload))
  have hver : p2shVersion.toNat = 5 := rfl
  rw [hlen] at hrest
  rw [hlen, hver] at hnum
  have hhead := head?_reverse_digits (base := 58) (d := 2) (k := 33) (by decide) (by decide)
    (n := beNat (p2shVersion :: (payload ++ checksum (p2shVersion :: payload)))) (by omega) (by omega)
  rw [b58CheckEncode, List.cons_append, b58Encode_cons_of_ne_zero (by decide), List.head?_map, hhead]
  decide

end

@[simp] theorem length_hash160 (b : List Byte) : (hash160 b).length = 20 := length_digest _ _

theorem p2pkhPayload_of_decoded {str h : List Byte} {ver : Byte} (hdecode : b58CheckDecode str = .ok (ver, h))
    (h20 : h.length = 20) (hver : ver = 0 ∨ ver = 111) : p2pkhPayload str = some h := by
  simp only [p2pkhPayload, hdecode]
  exact if_pos ⟨h20, hver⟩

/-! ### The commands -/

section
variable {s : State} {m : List Byte} (source : s.SourceInside) (dest : s.DestInside) (bytes : s.sourceBytes = some m)
include source dest bytes

/-- DERIVE_P2PKH of a 33-byte key comes to the address of the key's Hash160 (44 R260). -/
theorem exec_deriveP2pkh_of_inside (net : Net) (h33 : s.srcLen = 33) :
    exec (.deriveP2pkh net) s =
      .next (s.succeed (b58CheckEncode (p2pkhVersion net) (hash160 m)) (p2pkhVersion net)) := by
  simp [exec, execDeriveP2pkh, (sourceInRange_iff s).2 source, (destInRange_iff s).2 dest, h33, bytes, withBytes,
    State.finish]

/-- WRAP_P2SH of a valid P2PKH address comes to the address of its witness program's Hash160 (44 R261). -/
theorem exec_wrapP2sh_of_payload {h : List Byte} (hpayload : p2pkhPayload m = some h) :
    exec .wrapP2sh s = .next (s.succeed (b58CheckEncode p2shVersion (hash160 (witnessProgram h))) p2shVersion) :=
  (State.oneShot_of_inside source dest bytes _).trans (by simp only [hpayload, State.finish])

end

/-- Settles O39: a Hash160 has 20 bytes, and both version bytes are at most 111. -/
theorem deriveP2pkhWritesTheAddress : Obligations.DeriveP2pkhWritesTheAddress := by
  unfold Obligations.DeriveP2pkhWritesTheAddress
  intro net ver s pub hnet source dest h33 bytes
  obtain ⟨rfl, hver⟩ : ver = p2pkhVersion net ∧ (p2pkhVersion net).toNat ≤ 111 := by
    simp only [List.mem_cons, Prod.mk.injEq, List.not_mem_nil, or_false] at hnet
    obtain ⟨rfl, rfl⟩ | ⟨rfl, rfl⟩ := hnet <;> decide
  exact ⟨_, rfl, length_b58CheckEncode_le (length_hash160 pub) hver,
    completion_of_succeed (exec_deriveP2pkh_of_inside source dest bytes net h33)⟩

/-- Settles O41: a Hash160 has 20 bytes, so the string is the P2SH address of one. -/
theorem wrapP2shWritesTheAddress : Obligations.WrapP2shWritesTheAddress := by
  unfold Obligations.WrapP2shWritesTheAddress
  intro s str h ver source dest bytes hdecode h20 hver
  have h160 := length_hash160 (witnessProgram h)
  exact ⟨_, rfl, length_b58CheckEncode_le h160 (by decide), head?_b58CheckEncode_p2sh h160,
    completion_of_succeed
      (exec_wrapP2sh_of_payload source dest bytes (p2pkhPayload_of_decoded hdecode h20 hver))⟩

end Sys2Proof.Machine
end

section
/-! The error endings of the commands (60 R273 to R285), each written out as the state it leaves. -/

namespace Sys2Proof.Machine

/-! ### Any failing command -/

/-- Settles O48: of a command's endings only `State.fail` leaves an error, and it writes nothing else. -/
theorem failingCommandChangesNothingElse : Obligations.FailingCommandChangesNothingElse := by
  unfold Obligations.FailingCommandChangesNothingElse
  intro i s t h failed
  have hend : CommandEnd i s (.next t) := h ▸ exec_end i s
  cases hend with
  | failed code info => exact State.fail_eq_afterError s code info
  | stored | created | updated | finalized => exact absurd rfl failed

/-! ### The illegal word -/

/-- With nothing scheduled the ENGINE moves (log 3). -/
theorem step_of_script_nil {s : State} (h : s.script = []) : step s = engineStep s := by
  rw [step, runStep, h]

/-- An engine event of the schedule lets the ENGINE move (log 2). -/
theorem step_engine {s : State} {later : List Event} (h : s.script = .engine :: later) :
    step s = engineStep { s with script := later } := by
  rw [step, runStep, h]
  rfl

/-- While BUSY = 1 the ENGINE completes an illegal word with ILLEGAL_COMMAND (60 R278). -/
theorem engineStep_of_illegal {s : State} {e : Illegal} (busy : s.busy = true)
    (hdecode : decode s.cfg.numCtx s.cmd = .error e) : engineStep s = .next (s.afterError 0x10 0) := by
  rw [engineStep, if_pos busy, runCommand, hdecode]
  rfl

/-- Settles O7: on each of the three paths the step is the ENGINE's. -/
theorem illegalWordCompletesWithIllegalCommand : Obligations.IllegalWordCompletesWithIllegalCommand := by
  unfold Obligations.IllegalWordCompletesWithIllegalCommand
  intro s e busy hdecode
  have hengine := engineStep_of_illegal busy hdecode
  refine ⟨fun hs => (step_of_script_nil hs).trans hengine, fun later hs => ?_,
    fun later hs waits => (step_poll_of_not_done hs waits).trans hengine⟩
  exact (step_engine hs).trans (engineStep_of_illegal (s := { s with script := later }) busy hdecode)

/-! ### The checks before an operand is read -/

/-- Settles O31: the state check comes before the operand registers are looked at. -/
theorem wrongLifecycleIsInvalidState : Obligations.WrongLifecycleIsInvalidState := by
  unfold Obligations.WrongLifecycleIsInvalidState
  intro s c sl named
  have hinvalid : s.fail .invalidState 0 = s.afterError 0x04 0 := State.fail_eq_afterError s .invalidState 0
  refine ⟨fun dead => ?_, fun empty => ?_⟩
  · simp only [exec, execCtxUpdate, named, if_pos dead, hinvalid]
  · simp only [exec, execCtxFinal, named, if_pos empty, hinvalid]

/-- Settles O40: the length check stands between the range checks and the read. -/
theorem wrongKeyLengthIsReported : Obligations.WrongKeyLengthIsReported := by
  unfold Obligations.WrongKeyLengthIsReported
  intro net s source dest h33
  simp only [exec, execDeriveP2pkh, (sourceInRange_iff s).2 source, (destInRange_iff s).2 dest, Bool.not_true,
    Bool.false_eq_true, if_false, if_pos h33, State.fail_eq_afterError, statusCode]

/-! ### Strings that do not decode -/

/-- The first byte outside the alphabet is found, with its index. -/
theorem firstInvalid_eq_some {s : List Byte} {k : Nat} (h : k < s.length) (bad : s[k] ∉ alphabet)
    (first : ∀ (j : Nat) (hj : j < k), s[j] ∈ alphabet) (i : Nat) : firstInvalid i s = some (s[k], i + k) := by
  induction s generalizing k i with
  | nil => exact absurd h (Nat.not_lt_zero k)
  | cons ch rest ih =>
    cases k with
    | zero => exact if_neg fun halpha => bad ((inAlphabet_iff_mem ch).1 halpha)
    | succ k =>
      have halpha : inAlphabet ch = true := (inAlphabet_iff_mem ch).2 (first 0 k.succ_pos)
      have hrest := ih (Nat.lt_of_succ_lt_succ h) bad (fun j hj => first (j + 1) (Nat.succ_lt_succ hj)) (i + 1)
      rw [firstInvalid, if_pos halpha, hrest, Nat.add_right_comm]
      rfl

theorem b58CheckDecode_of_error {s : List Byte} {e : CodecError} (h : b58Decode s = .error e) :
    b58CheckDecode s = .error e := by
  simp only [b58CheckDecode, h]

/-- Bits 7:0 of the ERR_INFO of an invalid character are the byte (10 R35). -/
theorem extractLsb'_low_shift_or_byte (index : Word) (byte : Byte) :
    ((index <<< 8) ||| byte.setWidth 32).extractLsb' 0 8 = byte := by
  ext j hj
  have hword : j < 32 := by omega
  simp [hj, hword]

/-- Bits 31:8 of the ERR_INFO of an invalid character are the index, as far as 24 bits hold it (10 R35). -/
theorem extractLsb'_high_shift_or_byte (index : Word) (byte : Byte) :
    ((index <<< 8) ||| byte.setWidth 32).extractLsb' 8 24 = index.setWidth 24 := by
  ext j hj
  have hword : j < 32 ∧ 8 + j < 32 := by omega
  simp [hword]

/-- A byte of a source region inside DMEM has an index of at most 24 bits (00 R9, 20 R70). -/
theorem lt_of_lt_length_of_sourceBytes {s : State} {m : List Byte} {k : Nat} (legal : s.cfg.legal)
    (source : s.SourceInside) (bytes : s.sourceBytes = some m) (h : k < m.length) : k < 2 ^ 24 := by
  obtain ⟨-, -, -, haw⟩ := legal
  have hsize : 2 ^ s.cfg.dmemAw ≤ 2 ^ 24 := Nat.pow_le_pow_right (by decide) haw
  have hlen := State.length_sourceBytes bytes
  unfold State.SourceInside at source
  omega

/-- Without a version byte 0 or 111 and a payload of 20 bytes there is no P2PKH payload (44 R253). -/
theorem p2pkhPayload_eq_none {str : List Byte}
    (h : ¬ ∃ (ver : Byte) (payload : List Byte),
      b58CheckDecode str = .ok (ver, payload) ∧ payload.length = 20 ∧ (ver = 0 ∨ ver = 111)) :
    p2pkhPayload str = none := by
  unfold p2pkhPayload
  split
  · rfl
  · next r hdecode => exact if_neg fun valid => h ⟨r.1, r.2, hdecode, valid⟩

section
variable {s : State} {m : List Byte} (source : s.SourceInside) (dest : s.DestInside) (bytes : s.sourceBytes = some m)
include source dest bytes

theorem exec_b58Dec_of_error {e : CodecError} (hdecode : b58Decode m = .error e) :
    exec .b58Dec s = .next (s.finish (codecFailure e)) :=
  (State.oneShot_of_inside source dest bytes _).trans (by simp only [hdecode])

/-- WRAP_P2SH of a string with no P2PKH payload reports INVALID_ADDRESS (44 R261). -/
theorem exec_wrapP2sh_of_no_payload (hpayload : p2pkhPayload m = none) :
    exec .wrapP2sh s = .next (s.fail .invalidAddress 0) :=
  (State.oneShot_of_inside source dest bytes _).trans (by simp only [hpayload, State.finish])

end

/-- Settles O37: both commands end with the data error of the first bad byte, whose index fits ERR_INFO. -/
theorem firstInvalidCharacterIsReported : Obligations.FirstInvalidCharacterIsReported := by
  unfold Obligations.FirstInvalidCharacterIsReported
  intro s str k h legal source dest bytes bad first
  have hdecode : b58Decode str = .error (.invalidCharacter str[k] k) := by
    rw [b58Decode, firstInvalid_eq_some h bad first 0, Nat.zero_add]
  have hindex : ((BitVec.ofNat 32 k).setWidth 24).toNat = k := by
    have hk := lt_of_lt_length_of_sourceBytes legal source bytes h
    rw [BitVec.toNat_setWidth, BitVec.toNat_ofNat]
    omega
  exact ⟨_, extractLsb'_low_shift_or_byte _ _, by rw [extractLsb'_high_shift_or_byte, hindex],
    exec_b58Dec_of_error source dest bytes hdecode,
    exec_b58cDec_of_error source dest bytes (b58CheckDecode_of_error hdecode)⟩

/-- Settles O42: there is no payload to wrap. -/
theorem invalidAddressIsReported : Obligations.InvalidAddressIsReported := by
  unfold Obligations.InvalidAddressIsReported
  intro s str source dest bytes invalid
  exact exec_wrapP2sh_of_no_payload source dest bytes (p2pkhPayload_eq_none invalid)

end Sys2Proof.Machine
end

section
/-! The ENGINE's turn (70 R306; log 2 and 3): the three paths on which it comes, the command that it runs while
BUSY = 1, and the word that the host places for it (log 4 and 9). -/

namespace Sys2Proof.Machine

/-- While BUSY = 1 the ENGINE runs the command that CMD decodes to. -/
theorem engineStep_of_decoded {s : State} {i : Instr} (busy : s.busy = true)
    (hdecode : decode s.cfg.numCtx s.cmd = .ok i) : engineStep s = exec i s := by
  rw [engineStep, if_pos busy, runCommand, hdecode]

/-- Settles O6: on each of the three paths the step is the ENGINE's. -/
theorem stepRunsTheDecodedCommand : Obligations.StepRunsTheDecodedCommand := by
  unfold Obligations.StepRunsTheDecodedCommand
  intro s i busy hdecode
  have hengine := engineStep_of_decoded busy hdecode
  refine ⟨fun hs => (step_of_script_nil hs).trans hengine, fun later hs => ?_,
    fun later hs waits => (step_poll_of_not_done hs waits).trans hengine⟩
  exact (step_engine hs).trans (engineStep_of_decoded (s := { s with script := later }) busy hdecode)

/-- Settles O8: the step is the ENGINE's, and the ENGINE is idle. -/
theorem idleEngineChangesNothing : Obligations.IdleEngineChangesNothing := by
  unfold Obligations.IdleEngineChangesNothing
  intro s idle
  exact ⟨fun hs => (step_of_script_nil hs).trans (engineStep_of_idle idle),
    fun later hs => (step_engine hs).trans (engineStep_of_idle idle)⟩

/-- A word of the opcode table that has a meaning decodes to it on an engine of the default NUM_CTX (log 9). -/
theorem decode_of_decodeTableWord {nbits w : Nat} {i : Instr} (h : decodeTableWord nbits w = some i) :
    decode Config.default.numCtx (BitVec.ofNat 32 (w % 2 ^ nbits)) = .ok i := by
  unfold decodeTableWord at h
  split at h
  · split at h
    · next hdecode => rwa [Option.some.inj h] at hdecode
    · cases h
  · cases h

/-- Placing a 32-bit word issues it with nothing else pending (log 4). -/
theorem withFetchWord_eq (s : State) (w : Nat) :
    s.withFetchWord 32 w = { s.issue (BitVec.ofNat 32 w) with script := [] } := by
  have hword : BitVec.ofNat 32 (w % 2 ^ 32) = BitVec.ofNat 32 w := by simp [← BitVec.toNat_inj]
  rw [State.withFetchWord, State.withCommand, hword]

/-- Settles O10: the placed word leaves a busy engine with nothing scheduled, whose next step O6 gives. -/
theorem placedWordRunsNext : Obligations.PlacedWordRunsNext := by
  unfold Obligations.PlacedWordRunsNext
  intro s w i hcfg htable
  have hdecode : decode (s.withFetchWord 32 w).cfg.numCtx (s.withFetchWord 32 w).cmd = .ok i := by
    have h := decode_of_decodeTableWord htable
    rwa [← hcfg] at h
  have hstep := (stepRunsTheDecodedCommand (s.withFetchWord 32 w) i rfl hdecode).1 rfl
  rwa [withFetchWord_eq] at hstep ⊢

end Sys2Proof.Machine
end

section
/-! Reset (70 R300, R301): the invariant, and what every register, slot and byte shows after it. -/

namespace Sys2Proof.Machine

/-- The parameters that 00 R9 assumes are legal. -/
theorem Config.legal_default : Config.default.legal := by decide

/-- Settles O11: `State.reset` is the state after reset for the default parameters. -/
theorem resetHasTheInvariant : Obligations.ResetHasTheInvariant := by
  unfold Obligations.ResetHasTheInvariant
  exact ⟨fun cfg legal => State.inv_resetOf legal, State.inv_resetOf Config.legal_default⟩

/-- A reset event of the schedule (70 R300). -/
theorem step_reset {s : State} {later : List Event} (h : s.script = .reset :: later) :
    step s = .next { s with script := later }.afterReset := by
  rw [step, runStep, h]
  rfl

/-- A computed register whose code is 0 for a slot after reset reads 0 while every slot is such a slot. -/
theorem packSlots_replicate_reset {code : Slot → BitVec 2} (h : code Slot.reset = 0) (n : Nat) :
    packSlots code (List.replicate n Slot.reset) = 0 := by
  induction n with
  | zero => rfl
  | succ n ih =>
    have hcons : packSlots code (List.replicate (n + 1) Slot.reset) =
        (packSlots code (List.replicate n Slot.reset) <<< 2) ||| (code Slot.reset).setWidth 32 := rfl
    rw [hcons, ih, h]
    rfl

/-- CONFIG is NUM_CTX over one byte of DMEM_AW, since both fit their fields (10 R38, 00 R9). -/
theorem configWord_of_legal {cfg : Config} (legal : cfg.legal) :
    configWord cfg = BitVec.ofNat 32 (cfg.numCtx * 256 + cfg.dmemAw) := by
  obtain ⟨-, hctx, -, haw⟩ := legal
  have hctx8 : cfg.numCtx < 2 ^ 8 := by omega
  have haw8 : cfg.dmemAw < 2 ^ 8 := by omega
  have happend : cfg.numCtx <<< 8 ||| cfg.dmemAw = cfg.numCtx * 256 + cfg.dmemAw := by
    rw [← Nat.shiftLeft_add_eq_or_of_lt haw8, Nat.shiftLeft_eq]
  apply BitVec.eq_of_toNat_eq
  simp only [configWord, BitVec.toNat_append, BitVec.toNat_ofNat, Nat.mod_eq_of_lt hctx8, Nat.mod_eq_of_lt haw8,
    Nat.zero_mod, Nat.zero_shiftLeft, Nat.zero_or, happend]
  omega

/-- Every register but ID and CONFIG reads 0 after reset (10 R23). -/
theorem regRead_afterReset_of_ne (s : State) {r : Reg} (hid : r ≠ .id) (hconfig : r ≠ .config) :
    s.afterReset.regRead r = 0 := by
  cases r with
  | id => exact absurd rfl hid
  | config => exact absurd rfl hconfig
  | status =>
    have hfields : 0#16 ++ 0#8 ++ 0#6 ++ BitVec.ofBool false ++ BitVec.ofBool false = 0#32 := by decide
    exact hfields
  | ctxState | ctxVariant => exact packSlots_replicate_reset rfl _
  | cmd | srcAddr | srcLen | dstAddr | dstCap | keyAddr | keyLen | resLen | resVer | errInfo | reserved => rfl

/-- Settles O14, from what the registers read after reset; every slot is `Slot.reset`, and no byte is listed. -/
theorem resetSetsEveryRegisterAndSlot : Obligations.ResetSetsEveryRegisterAndSlot := by
  unfold Obligations.ResetSetsEveryRegisterAndSlot
  intro s later legal hs
  refine ⟨_, step_reset hs, rfl, rfl, rfl, ?_, List.length_replicate, fun sl hsl => ?_, fun a => rfl⟩
  · have hid : State.regRead (State.afterReset { s with script := later }) .id = 0x47430007 := rfl
    have hconfig : State.regRead (State.afterReset { s with script := later }) .config =
        BitVec.ofNat 32 (s.cfg.numCtx * 256 + s.cfg.dmemAw) := configWord_of_legal legal
    simp [regMap, hid, hconfig, regRead_afterReset_of_ne]
  · obtain rfl := List.eq_of_mem_replicate hsl
    exact ⟨rfl, rfl, rfl, rfl, rfl, rfl, rfl⟩

end Sys2Proof.Machine
end

section
/-! Issue and the host hazard (70 R305, R310): a host write of CMD while BUSY = 0, and every host access while
BUSY = 1. -/

namespace Sys2Proof.Machine

/-- Settles O19: the write of CMD is the issue. -/
theorem cmdWriteIssuesACommand : Obligations.CmdWriteIssuesACommand := by
  unfold Obligations.CmdWriteIssuesACommand
  intro s w later idle hs
  exact step_wr_of_idle idle hs

/-- The four registers that R310 names. -/
theorem readableWhileBusy_iff_mem (r : Reg) :
    readableWhileBusy r = true ↔ r ∈ [Reg.status, .id, .config, .cmd] := by
  cases r <;> decide

/-- Those four are read whether or not a command is in flight. -/
theorem step_rd_of_readable {s : State} {later : List Event} {r : Reg} (hr : readableWhileBusy r = true)
    (h : s.script = .rd r :: later) :
    step s = .next { s with script := later, readings := s.readings ++ [.reg r (s.regRead r)] } := by
  have hstep : step s = .next (State.record { s with script := later }
      (.reg r (State.regRead { s with script := later } r))) := by
    simp [step, runStep, h, runEvent, hostRead, hr]
  rw [hstep, regRead_withScript]
  rfl

section
variable {s : State} {later : List Event} (busy : s.busy = true)
include busy

theorem step_wr_of_busy {r : Reg} {v : Word} (h : s.script = .wr r v :: later) : step s = .fault .hostHazard := by
  simp [step, runStep, h, runEvent, hostWrite, busy]

theorem step_mr_of_busy {a : Nat} (h : s.script = .mr a :: later) : step s = .fault .hostHazard := by
  simp [step, runStep, h, runEvent, hostMemRead, busy]

theorem step_mw_of_busy {a : Nat} {b : Byte} (h : s.script = .mw a b :: later) : step s = .fault .hostHazard := by
  simp [step, runStep, h, runEvent, hostMemWrite, busy]

theorem step_rd_of_busy {r : Reg} (hr : readableWhileBusy r = false) (h : s.script = .rd r :: later) :
    step s = .fault .hostHazard := by
  simp [step, runStep, h, runEvent, hostRead, busy, hr]

end

/-- Settles O23, one access at a time; of the reads, those that `readableWhileBusy` lists return the value. -/
theorem hostHazardIsExactlyTheForbiddenAccesses : Obligations.HostHazardIsExactlyTheForbiddenAccesses := by
  unfold Obligations.HostHazardIsExactlyTheForbiddenAccesses
  intro s later busy
  refine ⟨fun r v => step_wr_of_busy busy, fun r hs forbidden => ?_, fun a => step_mr_of_busy busy,
    fun a b => step_mw_of_busy busy, fun r hs allowed => ?_⟩
  · have hr : readableWhileBusy r = false :=
      Bool.eq_false_iff.2 fun readable => forbidden ((readableWhileBusy_iff_mem r).1 readable)
    exact step_rd_of_busy busy hr hs
  · exact step_rd_of_readable ((readableWhileBusy_iff_mem r).2 allowed) hs

end Sys2Proof.Machine
end
